-- ==== Sys2Proof/Word.lean ====
section
/-! DEFINITION. The widths of the machine's values (spec/00_scope.md R7, R8, R10). Every value is unsigned. -/

namespace Sys2Proof

/-- A memory cell, a general register, a timer, an immediate `kk` or a framebuffer pixel (R30, R40, R46, R70). -/
abbrev Byte := BitVec 8

/-- PC, I, OPC and a stack entry (R33, R35, R39, R42). -/
abbrev Word := BitVec 16

/-- A register index, the fields `x` and `y`: every value names a register (R30, R102). -/
abbrev Reg := BitVec 4

/-- The field `n`: a secondary selector, or the height of a sprite (R101, R102). -/
abbrev Nibble := BitVec 4

/-- The field `nnn`: an absolute address (R102). -/
abbrev Addr := BitVec 12

/-- The flag register's index: VF is V[15] (R31). -/
abbrev VF : Reg := 0xF#4

end Sys2Proof
end

