-- ==== Sys2Proof/Config.lean ====
section
/-! DEFINITION. What an implementation fixes (spec/00_scope.md R6), and the one free value: the random draws (R240). -/

namespace Sys2Proof.Config

/-- MEM_SIZE: addresses 0x000 to 0xFFF (R6, R70). -/
@[simp] def memSize : Nat := 4096

/-- FONT_BASE (R6, R52). -/
@[simp] def fontBase : Nat := 0x050

/-- FONT_SIZE: 16 glyphs of 5 bytes (R6). -/
@[simp] def fontSize : Nat := 80

/-- PROG_BASE, the entry address and PC_MIN (R6, R71, R381). -/
@[simp] def progBase : Nat := 0x200

/-- PROG_MAX: the most bytes LOAD copies (R6, R386). -/
@[simp] def progMax : Nat := 3584

/-- PC_MAX, the upper end of the fetch clamp, inclusive (R6, R140). -/
@[simp] def pcMax : Nat := 0xFFE

/-- JP_LIMIT, exclusive (R6, R171). -/
@[simp] def jpLimit : Nat := 0xFFE

/-- STACK_DEPTH (R6, R38). -/
@[simp] def stackDepth : Nat := 16

/-- INVALID_LIMIT: the event that makes the count exceed it escalates (R6, R343). -/
@[simp] def invalidLimit : Nat := 10

/-- F_SELECTOR_MAX (R6). PRESUMED (log 5): the spec supplies 0x65 from general knowledge; unsafe. -/
@[simp] def fSelectorMax : Nat := 0x65

/-- The two parameters the spec leaves to a model's caller (R6, INDEX). They are fixed for a machine: the state carries
them, and no step writes them (log 1, log 2). -/
structure Params where
  /-- FONT: glyph d, row r (R52). -/
  font : Vector (Vector Byte 5) 16
  /-- INVALID_COUNT_CLEARS_ON_VALID (R151). -/
  invalidCountClearsOnValid : Bool
  deriving DecidableEq, Repr

/-- The conventional hexadecimal font (R52). PRESUMED (log 1): the source gives no bytes; unsafe where a claim reads them. -/
def conventionalFont : Vector (Vector Byte 5) 16 :=
  #v[#v[0xF0, 0x90, 0x90, 0x90, 0xF0], #v[0x20, 0x60, 0x20, 0x20, 0x70],
     #v[0xF0, 0x10, 0xF0, 0x80, 0xF0], #v[0xF0, 0x10, 0xF0, 0x10, 0xF0],
     #v[0x90, 0x90, 0xF0, 0x10, 0x10], #v[0xF0, 0x80, 0xF0, 0x10, 0xF0],
     #v[0xF0, 0x80, 0xF0, 0x90, 0xF0], #v[0xF0, 0x10, 0x20, 0x40, 0x40],
     #v[0xF0, 0x90, 0xF0, 0x90, 0xF0], #v[0xF0, 0x90, 0xF0, 0x10, 0xF0],
     #v[0xF0, 0x90, 0xF0, 0x90, 0x90], #v[0xE0, 0x90, 0xE0, 0x90, 0xE0],
     #v[0xF0, 0x80, 0x80, 0x80, 0xF0], #v[0xE0, 0x90, 0x90, 0x90, 0xE0],
     #v[0xF0, 0x80, 0xF0, 0x80, 0xF0], #v[0xF0, 0x80, 0xF0, 0x80, 0x80]]

/-- The parameters' defaults (R6): the conventional font, and a counter that only the escalation clears
(DESIGN CHOICE, log 2: the spec's default; unsafe). -/
def defaultParams : Params := { font := conventionalFont, invalidCountClearsOnValid := false }

/-- The free value of the `k`-th draw of the random-byte source that the host did not supply: some byte, under no law
(R240, U1, log 3). It has no body, so no proof can tell its value; safe. -/
opaque freeDraw : Nat → Byte

end Sys2Proof.Config
end

