-- ==== Sys2Proof/Syntax.lean ====
section
/-! DEFINITION. The 34 instructions, one constructor per row of spec/opcode_table.json (30_encoding.md R105). The operands are
the fields the decoder reads (R101, R102); the bits it ignores (R110) are no part of an instruction. -/

namespace Sys2Proof

/-- An instruction with its operands (R113). -/
inductive Instr where
  /-- CLS, 0..0 (R250). -/
  | cls
  /-- RET, 0..E (R173). -/
  | ret
  /-- JP nnn, 1nnn (R171). -/
  | jp (nnn : Addr)
  /-- CALL nnn, 2nnn (R172). -/
  | call (nnn : Addr)
  /-- SE Vx, kk, 3xkk (R174). -/
  | seImm (x : Reg) (kk : Byte)
  /-- SNE Vx, kk, 4xkk (R175). -/
  | sneImm (x : Reg) (kk : Byte)
  /-- SE Vx, Vy, 5xy. (R176). -/
  | seReg (x y : Reg)
  /-- LD Vx, kk, 6xkk (R202). -/
  | ldImm (x : Reg) (kk : Byte)
  /-- ADD Vx, kk, 7xkk (R203). -/
  | addImm (x : Reg) (kk : Byte)
  /-- LD Vx, Vy, 8xy0 (R204). -/
  | ldReg (x y : Reg)
  /-- OR Vx, Vy, 8xy1 (R205). -/
  | or (x y : Reg)
  /-- AND Vx, Vy, 8xy2 (R206). -/
  | and (x y : Reg)
  /-- XOR Vx, Vy, 8xy3 (R207). -/
  | xor (x y : Reg)
  /-- ADD Vx, Vy, 8xy4 (R208). -/
  | addReg (x y : Reg)
  /-- SUB Vx, Vy, 8xy5 (R209). -/
  | sub (x y : Reg)
  /-- SHR Vx, 8xy6: `y` is decoded and not read (R210). -/
  | shr (x y : Reg)
  /-- SUBN Vx, Vy, 8xy7 (R211). -/
  | subn (x y : Reg)
  /-- SHL Vx, 8xyE: `y` is decoded and not read (R212). -/
  | shl (x y : Reg)
  /-- SNE Vx, Vy, 9xy. (R177). -/
  | sneReg (x y : Reg)
  /-- LD I, nnn, Annn (R300). -/
  | ldI (nnn : Addr)
  /-- JP V0, nnn, Bnnn (R178). -/
  | jpV0 (nnn : Addr)
  /-- RND Vx, kk, Cxkk (R241). -/
  | rnd (x : Reg) (kk : Byte)
  /-- DRW Vx, Vy, n, Dxyn (R252). -/
  | drw (x y : Reg) (n : Nibble)
  /-- SKP Vx, Ex.E (R281). -/
  | skp (x : Reg)
  /-- SKNP Vx, Ex.1 (R282). -/
  | sknp (x : Reg)
  /-- LD Vx, DT, Fx07 (R301). -/
  | ldVxDt (x : Reg)
  /-- LD Vx, K, Fx0A (R283). -/
  | ldVxK (x : Reg)
  /-- LD DT, Vx, Fx15 (R302). -/
  | ldDtVx (x : Reg)
  /-- LD ST, Vx, Fx18 (R303). -/
  | ldStVx (x : Reg)
  /-- ADD I, Vx, Fx1E (R304). -/
  | addIVx (x : Reg)
  /-- LD F, Vx, Fx29 (R305). -/
  | ldFVx (x : Reg)
  /-- LD B, Vx, Fx33 (R306). -/
  | ldBVx (x : Reg)
  /-- LD [I], Vx, Fx55 (R307). -/
  | ldMemVx (x : Reg)
  /-- LD Vx, [I], Fx65 (R308). -/
  | ldVxMem (x : Reg)
  deriving DecidableEq, Repr

end Sys2Proof
end

