-- ==== Sys2Proof/Decode.lean ====
section
/-! DEFINITION. The decoder, total on every 16-bit word, and the encoder (30_encoding.md). PRESUMED (log 5): the bit patterns of
R105 are the spec's supply from general knowledge; unsafe. -/

namespace Sys2Proof

/-- Why a word is no instruction (R113). -/
inductive InvalidReason where
  /-- INVALID_F_RANGE: family 0xF with a low byte above 0x65, rejected by check (b) (R109, R144). -/
  | fRange
  /-- INVALID_SELECTOR: any other word no row matches, rejected at dispatch (R147). -/
  | selector
  deriving DecidableEq, Repr

/-- What a word decodes to (R113). -/
inductive Decoded where
  | instr (i : Instr)
  | invalid (why : InvalidReason)
  deriving DecidableEq, Repr

/-- `f = OPC[15:12]` (R10). -/
def fieldF (w : Word) : BitVec 4 := w.extractLsb' 12 4

/-- `x = OPC[11:8]` (R10). -/
def fieldX (w : Word) : Reg := w.extractLsb' 8 4

/-- `y = OPC[7:4]` (R10). -/
def fieldY (w : Word) : Reg := w.extractLsb' 4 4

/-- `n = OPC[3:0]` (R10). -/
def fieldN (w : Word) : Nibble := w.extractLsb' 0 4

/-- `kk = OPC[7:0]` (R10). -/
def fieldKK (w : Word) : Byte := w.extractLsb' 0 8

/-- `nnn = OPC[11:0]` (R10). -/
def fieldNNN (w : Word) : Addr := w.extractLsb' 0 12

/-- Family 0x0, on the low nibble; bits 11:4 are not examined (R106, R112). -/
def decodeSystem (w : Word) : Decoded :=
  match fieldN w with
  | 0x0#4 => .instr .cls
  | 0xE#4 => .instr .ret
  | _ => .invalid .selector

/-- Family 0x8, on the low nibble (R107). -/
def decodeAlu (w : Word) : Decoded :=
  match fieldN w with
  | 0x0#4 => .instr (.ldReg (fieldX w) (fieldY w))
  | 0x1#4 => .instr (.or (fieldX w) (fieldY w))
  | 0x2#4 => .instr (.and (fieldX w) (fieldY w))
  | 0x3#4 => .instr (.xor (fieldX w) (fieldY w))
  | 0x4#4 => .instr (.addReg (fieldX w) (fieldY w))
  | 0x5#4 => .instr (.sub (fieldX w) (fieldY w))
  | 0x6#4 => .instr (.shr (fieldX w) (fieldY w))
  | 0x7#4 => .instr (.subn (fieldX w) (fieldY w))
  | 0xE#4 => .instr (.shl (fieldX w) (fieldY w))
  | _ => .invalid .selector

/-- Family 0xE, on the low nibble; bits 7:4 are not examined (R108). -/
def decodeKeySkip (w : Word) : Decoded :=
  match fieldN w with
  | 0xE#4 => .instr (.skp (fieldX w))
  | 0x1#4 => .instr (.sknp (fieldX w))
  | _ => .invalid .selector

/-- Family 0xF, on the low byte (R109). -/
def decodeMisc (w : Word) : Decoded :=
  if (fieldKK w).toNat > Config.fSelectorMax then .invalid .fRange
  else match fieldKK w with
    | 0x07#8 => .instr (.ldVxDt (fieldX w))
    | 0x0A#8 => .instr (.ldVxK (fieldX w))
    | 0x15#8 => .instr (.ldDtVx (fieldX w))
    | 0x18#8 => .instr (.ldStVx (fieldX w))
    | 0x1E#8 => .instr (.addIVx (fieldX w))
    | 0x29#8 => .instr (.ldFVx (fieldX w))
    | 0x33#8 => .instr (.ldBVx (fieldX w))
    | 0x55#8 => .instr (.ldMemVx (fieldX w))
    | 0x65#8 => .instr (.ldVxMem (fieldX w))
    | _ => .invalid .selector

/-- The decoder: every word is one of the 34 instructions or invalid for a named reason (R103, R113). The last arm is family
0xF, the one value of `f` left. -/
def decode (w : Word) : Decoded :=
  match fieldF w with
  | 0x0#4 => decodeSystem w
  | 0x1#4 => .instr (.jp (fieldNNN w))
  | 0x2#4 => .instr (.call (fieldNNN w))
  | 0x3#4 => .instr (.seImm (fieldX w) (fieldKK w))
  | 0x4#4 => .instr (.sneImm (fieldX w) (fieldKK w))
  | 0x5#4 => .instr (.seReg (fieldX w) (fieldY w))
  | 0x6#4 => .instr (.ldImm (fieldX w) (fieldKK w))
  | 0x7#4 => .instr (.addImm (fieldX w) (fieldKK w))
  | 0x8#4 => decodeAlu w
  | 0x9#4 => .instr (.sneReg (fieldX w) (fieldY w))
  | 0xA#4 => .instr (.ldI (fieldNNN w))
  | 0xB#4 => .instr (.jpV0 (fieldNNN w))
  | 0xC#4 => .instr (.rnd (fieldX w) (fieldKK w))
  | 0xD#4 => .instr (.drw (fieldX w) (fieldY w) (fieldN w))
  | 0xE#4 => decodeKeySkip w
  | _ => decodeMisc w

/-- The word fetched from two bytes: the one at the lower address is the high byte (R72, R141). -/
def wordOfBytes (hi lo : Byte) : Word := hi ++ lo

/-- The high byte of a word, stored at the lower address (R72). -/
def highByte (w : Word) : Byte := w.extractLsb' 8 8

/-- The low byte of a word, stored at the higher address (R72). -/
def lowByte (w : Word) : Byte := w.extractLsb' 0 8

/-- Decoding the two bytes of an instruction in the order they stand in memory (R72, R100). -/
def decodeBytes (hi lo : Byte) : Decoded := decode (wordOfBytes hi lo)

/-- The canonical word of an instruction (R105, R115): ignored bits 0, but CLS 00E0, RET 00EE, SKP Ex9E, SKNP ExA1. -/
def encode : Instr → Word
  | .cls => 0x00E0#16
  | .ret => 0x00EE#16
  | .jp nnn => 0x1#4 ++ nnn
  | .call nnn => 0x2#4 ++ nnn
  | .seImm x kk => 0x3#4 ++ x ++ kk
  | .sneImm x kk => 0x4#4 ++ x ++ kk
  | .seReg x y => 0x5#4 ++ x ++ y ++ 0x0#4
  | .ldImm x kk => 0x6#4 ++ x ++ kk
  | .addImm x kk => 0x7#4 ++ x ++ kk
  | .ldReg x y => 0x8#4 ++ x ++ y ++ 0x0#4
  | .or x y => 0x8#4 ++ x ++ y ++ 0x1#4
  | .and x y => 0x8#4 ++ x ++ y ++ 0x2#4
  | .xor x y => 0x8#4 ++ x ++ y ++ 0x3#4
  | .addReg x y => 0x8#4 ++ x ++ y ++ 0x4#4
  | .sub x y => 0x8#4 ++ x ++ y ++ 0x5#4
  | .shr x y => 0x8#4 ++ x ++ y ++ 0x6#4
  | .subn x y => 0x8#4 ++ x ++ y ++ 0x7#4
  | .shl x y => 0x8#4 ++ x ++ y ++ 0xE#4
  | .sneReg x y => 0x9#4 ++ x ++ y ++ 0x0#4
  | .ldI nnn => 0xA#4 ++ nnn
  | .jpV0 nnn => 0xB#4 ++ nnn
  | .rnd x kk => 0xC#4 ++ x ++ kk
  | .drw x y n => 0xD#4 ++ x ++ y ++ n
  | .skp x => 0xE#4 ++ x ++ 0x9E#8
  | .sknp x => 0xE#4 ++ x ++ 0xA1#8
  | .ldVxDt x => 0xF#4 ++ x ++ 0x07#8
  | .ldVxK x => 0xF#4 ++ x ++ 0x0A#8
  | .ldDtVx x => 0xF#4 ++ x ++ 0x15#8
  | .ldStVx x => 0xF#4 ++ x ++ 0x18#8
  | .addIVx x => 0xF#4 ++ x ++ 0x1E#8
  | .ldFVx x => 0xF#4 ++ x ++ 0x29#8
  | .ldBVx x => 0xF#4 ++ x ++ 0x33#8
  | .ldMemVx x => 0xF#4 ++ x ++ 0x55#8
  | .ldVxMem x => 0xF#4 ++ x ++ 0x65#8

/-- The bits the decoder examines in an instruction's row, and their values: (match, mask) of R105. -/
def rowOf : Instr → Word × Word
  | .cls => (0x0000#16, 0xF00F#16)
  | .ret => (0x000E#16, 0xF00F#16)
  | .jp _ => (0x1000#16, 0xF000#16)
  | .call _ => (0x2000#16, 0xF000#16)
  | .seImm _ _ => (0x3000#16, 0xF000#16)
  | .sneImm _ _ => (0x4000#16, 0xF000#16)
  | .seReg _ _ => (0x5000#16, 0xF000#16)
  | .ldImm _ _ => (0x6000#16, 0xF000#16)
  | .addImm _ _ => (0x7000#16, 0xF000#16)
  | .ldReg _ _ => (0x8000#16, 0xF00F#16)
  | .or _ _ => (0x8001#16, 0xF00F#16)
  | .and _ _ => (0x8002#16, 0xF00F#16)
  | .xor _ _ => (0x8003#16, 0xF00F#16)
  | .addReg _ _ => (0x8004#16, 0xF00F#16)
  | .sub _ _ => (0x8005#16, 0xF00F#16)
  | .shr _ _ => (0x8006#16, 0xF00F#16)
  | .subn _ _ => (0x8007#16, 0xF00F#16)
  | .shl _ _ => (0x800E#16, 0xF00F#16)
  | .sneReg _ _ => (0x9000#16, 0xF000#16)
  | .ldI _ => (0xA000#16, 0xF000#16)
  | .jpV0 _ => (0xB000#16, 0xF000#16)
  | .rnd _ _ => (0xC000#16, 0xF000#16)
  | .drw _ _ _ => (0xD000#16, 0xF000#16)
  | .skp _ => (0xE00E#16, 0xF00F#16)
  | .sknp _ => (0xE001#16, 0xF00F#16)
  | .ldVxDt _ => (0xF007#16, 0xF0FF#16)
  | .ldVxK _ => (0xF00A#16, 0xF0FF#16)
  | .ldDtVx _ => (0xF015#16, 0xF0FF#16)
  | .ldStVx _ => (0xF018#16, 0xF0FF#16)
  | .addIVx _ => (0xF01E#16, 0xF0FF#16)
  | .ldFVx _ => (0xF029#16, 0xF0FF#16)
  | .ldBVx _ => (0xF033#16, 0xF0FF#16)
  | .ldMemVx _ => (0xF055#16, 0xF0FF#16)
  | .ldVxMem _ => (0xF065#16, 0xF0FF#16)

/-- The 34 rows of R105, in the table's order, as (match, mask). -/
def opcodeRows : List (Word × Word) :=
  [.cls, .ret, .jp 0, .call 0, .seImm 0 0, .sneImm 0 0, .seReg 0 0, .ldImm 0 0, .addImm 0 0].map rowOf ++
  [.ldReg 0 0, .or 0 0, .and 0 0, .xor 0 0, .addReg 0 0, .sub 0 0, .shr 0 0, .subn 0 0, .shl 0 0].map rowOf ++
  [.sneReg 0 0, .ldI 0, .jpV0 0, .rnd 0 0, .drw 0 0 0, .skp 0, .sknp 0].map rowOf ++
  [.ldVxDt 0, .ldVxK 0, .ldDtVx 0, .ldStVx 0, .addIVx 0, .ldFVx 0, .ldBVx 0, .ldMemVx 0, .ldVxMem 0].map rowOf

/-- The bits of a word that the decoder does not examine, by the row the word lies on (R110). -/
def ignoredBits : Instr → Word
  | .cls | .ret => 0x0FF0#16
  | .seReg _ _ | .sneReg _ _ => 0x000F#16
  | .skp _ | .sknp _ => 0x00F0#16
  | .jp _ | .call _ | .seImm _ _ | .sneImm _ _ | .ldImm _ _ | .addImm _ _ | .ldReg _ _ | .or _ _ | .and _ _ | .xor _ _
  | .addReg _ _ | .sub _ _ | .shr _ _ | .subn _ _ | .shl _ _ | .ldI _ | .jpV0 _ | .rnd _ _ | .drw _ _ _ | .ldVxDt _
  | .ldVxK _ | .ldDtVx _ | .ldStVx _ | .addIVx _ | .ldFVx _ | .ldBVx _ | .ldMemVx _ | .ldVxMem _ => 0x0000#16

/-- The word an opcode-table row's bits stand for: `w` cut to the row's `nbits`, the rest of the 16 bits 0. -/
def tableWord (nbits w : Nat) : Word := BitVec.ofNat 16 (w % 2 ^ nbits)

/-- The decoder's answer on a word of the opcode table, laid out in memory order and decoded as fetched. -/
def decodeTableWord (nbits w : Nat) : Option Instr :=
  match decodeBytes (highByte (tableWord nbits w)) (lowByte (tableWord nbits w)) with
  | .instr i => some i
  | .invalid _ => none

end Sys2Proof
end

