-- ==== Sys2Proof/Machine/State.lean ====
section
/-! DEFINITION. Every piece of state the spec gives the machine (10_state.md R30 to R52), the reasons a step can stop, and the
machine right after construction. -/

namespace Sys2Proof.Machine

/-- The event output's codes 0..9 (60_exceptions.md R348), in the order of their numbers. -/
inductive Event where
  /-- 0: the instruction executed on its normal path, or nothing has been executed yet. -/
  | none
  /-- 1: an invalid word, without escalation (R341). -/
  | invalidOpcode
  /-- 2: the invalid word that escalates (R343). -/
  | invalidEscalation
  /-- 3: SP >= 16 (R345). -/
  | stackOverflow
  /-- 4: RET with an empty stack (R345). -/
  | stackUnderflow
  /-- 5: DRW's bounds check failed (R346). -/
  | drawOob
  /-- 6: LD B's bounds check failed (R346). -/
  | bcdOob
  /-- 7: a block transfer's bounds check failed (R346). -/
  | blockOob
  /-- 8: JP to a target outside [0x200, 0xFFE) (R347). -/
  | jumpRejected
  /-- 9: LD Vx, K with no key down (R347). -/
  | keyWait
  deriving DecidableEq, Repr

/-- Why a step stops with a fault. -/
inductive Fault where
  /-- An access of `n` bytes at `addr` that passes the end of memory. Raised by `State.memRead8`, `State.memRead` and
  `State.memWrite`, which are defined only below 4096 (R9, R76); no step raises it, since every access is checked first.
  Safe (log 7). -/
  | outsideMemory (addr n : Nat)
  deriving DecidableEq, Repr

/-- Why a step is refused. -/
inductive Refusal where
  /-- Raised by `exec` alone, for an instruction with no meaning yet: none is left. Safe. -/
  | notModelled (mnemonic : String)
  deriving DecidableEq, Repr

/-- The framebuffer: 32 rows, top to bottom, of 64 pixel bytes, left to right (R46, log 11). -/
abbrev Framebuffer := Vector (Vector Byte 64) 32

/-- The machine's state. -/
structure State where
  /-- V[0..15] (R30). -/
  v : Vector Byte 16
  /-- PC (R33). -/
  pc : Word
  /-- I (R35). -/
  i : Word
  /-- SP, 0..16: the number of return addresses held (R38). -/
  sp : Fin 17
  /-- STACK[0..15] (R39). -/
  stack : Vector Word 16
  /-- DT, the delay timer (R40). -/
  dt : Byte
  /-- ST, the sound timer (R40). -/
  st : Byte
  /-- OPC, the word most recently fetched (R42). -/
  opc : Word
  /-- INVALID_COUNT (R43). -/
  invalidCount : Nat
  /-- REDRAW (R44). -/
  redraw : Bool
  /-- FB (R46). -/
  fb : Framebuffer
  /-- KEY[0..15], true while down; the host's (R47). -/
  keys : Vector Bool 16
  /-- MEM (R48): the cells that differ from their reset contents, by rising address (log 9). -/
  mem : List Host.Cell
  /-- The event output (R348). -/
  event : Event
  /-- The random bytes the host has given to coming cycles and no RND has taken, the next one first (R53, R240). The model's
  own field (log 3). -/
  draws : List Byte
  /-- How many draws have been the free value. The model's own field (log 3). -/
  freeDraws : Nat
  /-- The parameters this machine was built with; no step writes them. The model's own field (log 1, log 2). -/
  params : Config.Params
  deriving DecidableEq, Repr

/-- What executing an instruction, or one step, ends in. -/
abbrev Result := Host.Outcome State Fault Refusal

/-- A framebuffer with every pixel 0. -/
def blankFb : Framebuffer := Vector.replicate 32 (Vector.replicate 64 0)

/-- The machine right after construction with the parameters `p` (R51, R380). DESIGN CHOICE: the event output is NONE (log 4) and
no random byte is waiting (log 3), where the spec gives no value; unsafe. -/
def State.construct (p : Config.Params) : State where
  v := Vector.replicate 16 0
  pc := 0x200
  i := 0
  sp := 0
  stack := Vector.replicate 16 0
  dt := 0
  st := 0
  opc := 0
  invalidCount := 0
  redraw := false
  fb := blankFb
  keys := Vector.replicate 16 false
  mem := []
  event := .none
  draws := []
  freeDraws := 0
  params := p

/-- The machine after power-on, with the parameters' defaults (R6, R51). -/
def State.reset : State := State.construct Config.defaultParams

end Sys2Proof.Machine
end

