-- ==== Sys2Proof/Machine/Ops.lean ====
section
/-! DEFINITION. The named operations over registers, memory and control state that the instructions share, and the events of
60_exceptions.md (the spec's exceptions), each said once. -/

namespace Sys2Proof.Machine

/-! ### General registers (R30, R31) -/

/-- `V[x]`. -/
def State.reg (s : State) (x : Reg) : Byte := s.v[x.toNat]'x.isLt

/-- `V[x] <- b`. -/
def State.setReg (s : State) (x : Reg) (b : Byte) : State := { s with v := s.v.set x.toNat b x.isLt }

/-! ### PC, I and the timers (R33, R35, R40) -/

/-- `PC <- a`, for an address below 2^16. -/
def State.setPc (s : State) (a : Nat) : State := { s with pc := BitVec.ofNat 16 a }

/-- `PC <- PC + 2`: a skip (R170). DEDUCED (log 10): PC is 16 bits, so a PC no cycle can hold wraps; unsafe only there. -/
def State.skip (s : State) : State := { s with pc := s.pc + 2 }

/-- `PC <- PC - 2`: the key wait's rewind (R283). DEDUCED (log 10), as `State.skip`. -/
def State.rewind (s : State) : State := { s with pc := s.pc - 2 }

/-- `I <- a`, for an address below 2^16. -/
def State.setI (s : State) (a : Nat) : State := { s with i := BitVec.ofNat 16 a }

/-- `DT <- b` (R302). -/
def State.setDt (s : State) (b : Byte) : State := { s with dt := b }

/-- `ST <- b` (R303). -/
def State.setSt (s : State) (b : Byte) : State := { s with st := b }

/-- `clamp(v, lo, hi)` (R9). -/
def clamp (k lo hi : Nat) : Nat := min (max k lo) hi

/-! ### The event output (R348) -/

/-- `event <- e`. -/
def State.report (s : State) (e : Event) : State := { s with event := e }

/-- The number of an event code (R348). -/
def Event.code : Event → Nat
  | .none => 0
  | .invalidOpcode => 1
  | .invalidEscalation => 2
  | .stackOverflow => 3
  | .stackUnderflow => 4
  | .drawOob => 5
  | .bcdOob => 6
  | .blockOob => 7
  | .jumpRejected => 8
  | .keyWait => 9

/-! ### Memory (20_memory.md) -/

/-- What a cell no entry lists reads as: its contents at construction, the glyph table at 0x050..0x09F and 0 elsewhere (R51, R52,
log 9). -/
def Memory.unlisted (p : Config.Params) (a : Nat) : Byte :=
  if h : Config.fontBase ≤ a ∧ a < Config.fontBase + Config.fontSize then
    (p.font[(a - Config.fontBase) / 5]'(by simp only [Config.fontBase, Config.fontSize] at h ⊢; omega))[(a - Config.fontBase) % 5]'(Nat.mod_lt _ (by decide))
  else 0

/-- The byte at address `a`. -/
def Memory.read (p : Config.Params) : List Host.Cell → Nat → Byte
  | [], a => Memory.unlisted p a
  | (b, w) :: rest, a => if a = b then w else Memory.read p rest a

/-- The list without an entry for `a`. -/
def Memory.erase : List Host.Cell → Nat → List Host.Cell
  | [], _ => []
  | (b, w) :: rest, a => if a = b then Memory.erase rest a else (b, w) :: Memory.erase rest a

/-- An entry put at its place by rising address. -/
def Memory.insert : List Host.Cell → Nat → Byte → List Host.Cell
  | [], a, v => [(a, v)]
  | (b, w) :: rest, a, v => if a < b then (a, v) :: (b, w) :: rest else (b, w) :: Memory.insert rest a v

/-- Writing one byte: the old entry goes, and a new one comes unless the byte is what an unlisted cell reads as. -/
def Memory.write (p : Config.Params) (m : List Host.Cell) (a : Nat) (v : Byte) : List Host.Cell :=
  if v = Memory.unlisted p a then Memory.erase m a else Memory.insert (Memory.erase m a) a v

/-- The canonical form from address `lo` on: addresses strictly rising and below 4096, no entry equal to its reset contents. -/
def Memory.wfFrom (p : Config.Params) : Nat → List Host.Cell → Bool
  | _, [] => true
  | lo, (a, v) :: rest =>
    decide (lo ≤ a) && decide (a < Config.memSize) && decide (v ≠ Memory.unlisted p a) && Memory.wfFrom p (a + 1) rest

/-- The memory's canonical form: equal memories are equal lists. -/
def Memory.wf (p : Config.Params) (m : List Host.Cell) : Bool := Memory.wfFrom p 0 m

/-- The byte the machine holds at address `a`. -/
def State.readByte (s : State) (a : Nat) : Byte := Memory.read s.params s.mem a

/-- `MEM[a] <- b`, unchecked. -/
def State.pokeByte (s : State) (a : Nat) (b : Byte) : State := { s with mem := Memory.write s.params s.mem a b }

/-- `MEM[a], MEM[a + 1], ... <- bytes`, in rising order (R81), unchecked. -/
def State.pokeBytes (s : State) (a : Nat) : List Byte → State
  | [] => s
  | b :: bs => (s.pokeByte a b).pokeBytes (a + 1) bs

/-- `MemRead8(a)` (R9): defined only below 4096. -/
def State.memRead8 (s : State) (a : Nat) : Except Fault Byte :=
  if a < Config.memSize then .ok (s.readByte a) else .error (.outsideMemory a 1)

/-- `MemRead(a, n)` (R9): the bytes at a, ..., a+n-1; defined only when a+n <= 4096. -/
def State.memRead (s : State) (a n : Nat) : Except Fault (List Byte) :=
  if a + n ≤ Config.memSize then .ok ((List.range n).map fun k => s.readByte (a + k)) else .error (.outsideMemory a n)

/-- `MemWrite(a, n, bytes)` (R9): defined only when a+n <= 4096. -/
def State.memWrite (s : State) (a : Nat) (bytes : List Byte) : Except Fault State :=
  if a + bytes.length ≤ Config.memSize then .ok (s.pokeBytes a bytes) else .error (.outsideMemory a bytes.length)

/-! ### The call stack (R38, R39) -/

/-- `STACK[SP] <- PC; SP <- SP + 1`, or nothing when the stack is full (R172). -/
def State.pushReturn (s : State) : Option State :=
  if h : s.sp.val < Config.stackDepth then
    some { s with stack := s.stack.set s.sp.val s.pc h, sp := ⟨s.sp.val + 1, by simp at h; omega⟩ }
  else none

/-- `SP <- SP - 1; PC <- STACK[SP]`, the entry left as it was, or nothing when the stack is empty (R173). -/
def State.popReturn (s : State) : Option State :=
  if s.sp.val = 0 then none
  else some { s with sp := ⟨s.sp.val - 1, by omega⟩, pc := s.stack[s.sp.val - 1]'(by omega) }

/-! ### Events: the spec's exceptions, which save nothing and go to 0x200 (R350) -/

/-- `full_reset()` (R383): V, STACK, SP and I to 0, PC to 0x200; everything else stays (R384). -/
def State.fullReset (s : State) : State :=
  { s with v := Vector.replicate 16 0, stack := Vector.replicate 16 0, sp := 0, pc := 0x200, i := 0 }

/-- `raise FullReset(cause)` (R345). -/
def State.raiseFullReset (s : State) (cause : Event) : State := s.fullReset.report cause

/-- `PC <- 0x200; INVALID_COUNT <- INVALID_COUNT + 1`, the part every invalid opcode does (R341). -/
def State.countInvalid (s : State) : State := { s with pc := 0x200, invalidCount := s.invalidCount + 1 }

/-- `INVALID_COUNT <- 0`. -/
def State.clearCount (s : State) : State := { s with invalidCount := 0 }

/-- `raise Invalid(opc)` (R341), with the escalation of R343. -/
def State.raiseInvalid (s : State) : State :=
  if s.countInvalid.invalidCount > Config.invalidLimit then s.countInvalid.fullReset.clearCount.report .invalidEscalation
  else s.countInvalid.report .invalidOpcode

/-! ### The cycle around an instruction (40_cycle.md) -/

/-- The address the next cycle fetches from: `clamp(PC, 0x200, 0xFFE)` (R140). -/
def State.fetchAddr (s : State) : Nat := clamp s.pc.toNat Config.progBase Config.pcMax

/-- `PC <- clamp(PC, 0x200, 0xFFE)` (R140). -/
def State.clampPc (s : State) : State := s.setPc s.fetchAddr

/-- `OPC <- MemRead8(PC) * 256 + MemRead8(PC + 1)` (R141). -/
def State.fetch (s : State) : Except Fault State :=
  match s.memRead8 s.pc.toNat, s.memRead8 (s.pc.toNat + 1) with
  | .ok hi, .ok lo => .ok { s with opc := wordOfBytes hi lo }
  | .error f, _ => .error f
  | _, .error f => .error f

/-- `PC <- PC + 2` (R142). -/
def State.advance (s : State) : State := { s with pc := s.pc + 2 }

/-- Clamp, fetch, advance (R140 to R142), with the event output at NONE until something is reported (R348). -/
def State.beginCycle (s : State) : Except Fault State :=
  match s.clampPc.fetch with
  | .ok t => .ok (t.advance.report .none)
  | .error f => .error f

/-- How the checks and the dispatch end. -/
inductive Dispatched where
  /-- The cycle has ended, with this state: the dispatch was not successful (R149). -/
  | ended (s : State)
  /-- The dispatch was successful: this instruction executes (R148). -/
  | run (i : Instr)
  deriving DecidableEq, Repr

/-- Check (b), check (c), then the dispatch, in that order (R144, R145, R147, R152). Checks (a) and (d) never decide (R143,
R146). -/
def State.dispatch (s : State) : Dispatched :=
  if decode s.opc = .invalid .fRange then .ended s.raiseInvalid
  else if s.sp.val ≥ Config.stackDepth then .ended (s.raiseFullReset .stackOverflow)
  else match decode s.opc with
    | .invalid _ => .ended s.raiseInvalid
    | .instr i => .run i

/-- `DT <- max(DT - 1, 0); ST <- max(ST - 1, 0)` (R150). -/
def State.tick (s : State) : State :=
  { s with dt := BitVec.ofNat 8 (s.dt.toNat - 1), st := BitVec.ofNat 8 (s.st.toNat - 1) }

/-- The end of a cycle whose dispatch was successful: the counter (R151), then the timers (R150). -/
def State.endCycle (s : State) : State :=
  if s.params.invalidCountClearsOnValid then s.clearCount.tick else s.tick

/-! ### The random-byte source (R240) -/

/-- `RAND()`: the byte the host gave, else the free value (log 3). -/
def State.rand (s : State) : Byte :=
  match s.draws with
  | b :: _ => b
  | [] => Config.freeDraw s.freeDraws

/-- The source after one use: the draw is consumed (R241). -/
def State.consumeDraw (s : State) : State :=
  match s.draws with
  | _ :: rest => { s with draws := rest }
  | [] => { s with freeDraws := s.freeDraws + 1 }

/-! ### Placing an instruction -/

/-- The state with the bytes of `w` where the next fetch reads (R140, R141), and nothing else changed. -/
def State.placeWord (s : State) (w : Word) : State :=
  s.pokeBytes s.fetchAddr [highByte w, lowByte w]

end Sys2Proof.Machine
end

