-- ==== Sys2Proof/Machine/Flags.lean ====
section
/-! DEFINITION. Every flag the spec computes, and the order in which flag and result are written (42_arith_logic.md R200, R201). -/

namespace Sys2Proof.Machine

/-- A condition as the flag byte, 1 or 0. -/
def flagOf (c : Bool) : Byte := if c then 1 else 0

/-- The carry of `a + b`: 1 iff the exact sum exceeds 255 (R208). -/
def carryFlag (a b : Byte) : Byte := flagOf (decide (a.toNat + b.toNat > 255))

/-- The no-borrow flag of `a - b`: 1 iff a >= b (R209, R211). -/
def noBorrowFlag (a b : Byte) : Byte := flagOf (decide (a.toNat ≥ b.toNat))

/-- The bit a right shift by one moves out: bit 0 (R210). -/
def shrFlag (a : Byte) : Byte := flagOf (a.getLsbD 0)

/-- The bit a left shift by one moves out: bit 7 (R212). -/
def shlFlag (a : Byte) : Byte := flagOf (a.getLsbD 7)

/-- The collision flag of a draw (R252). -/
def collisionFlag (c : Bool) : Byte := flagOf c

/-- `(a + b) mod 256` (R203, R208). -/
def sumByte (a b : Byte) : Byte := BitVec.ofNat 8 ((a.toNat + b.toNat) % 256)

/-- `(a - b) mod 256` (R209, R211). -/
def diffByte (a b : Byte) : Byte := BitVec.ofNat 8 ((a.toNat + 256 - b.toNat) % 256)

/-- `a >> 1`, bit 7 becoming 0 (R210). -/
def shrByte (a : Byte) : Byte := BitVec.ofNat 8 (a.toNat / 2)

/-- `(a * 2) mod 256`, bit 0 becoming 0 (R212). -/
def shlByte (a : Byte) : Byte := BitVec.ofNat 8 (a.toNat * 2 % 256)

/-- VF gets the flag, then V[x] the result: with x = 15 the result stays (R201). -/
def State.setFlagThen (s : State) (x : Reg) (flag result : Byte) : State := (s.setReg VF flag).setReg x result

end Sys2Proof.Machine
end

