-- ==== Sys2Proof/Machine/ArithLogic.lean ====
section
/-! DEFINITION. The register arithmetic and logic instructions (42_arith_logic.md). Operands are read before any write (R9, R201). -/

namespace Sys2Proof.Machine

/-- LD Vx, kk (R202). -/
def execLdImm (x : Reg) (kk : Byte) (s : State) : Result := .next (s.setReg x kk)

/-- ADD Vx, kk (R203): VF is no flag here. -/
def execAddImm (x : Reg) (kk : Byte) (s : State) : Result := .next (s.setReg x (sumByte (s.reg x) kk))

/-- LD Vx, Vy (R204). -/
def execLdReg (x y : Reg) (s : State) : Result := .next (s.setReg x (s.reg y))

/-- OR Vx, Vy (R205): VF is not reset. -/
def execOr (x y : Reg) (s : State) : Result := .next (s.setReg x (s.reg x ||| s.reg y))

/-- AND Vx, Vy (R206). -/
def execAnd (x y : Reg) (s : State) : Result := .next (s.setReg x (s.reg x &&& s.reg y))

/-- XOR Vx, Vy (R207). -/
def execXor (x y : Reg) (s : State) : Result := .next (s.setReg x (s.reg x ^^^ s.reg y))

/-- ADD Vx, Vy (R208). -/
def execAddReg (x y : Reg) (s : State) : Result :=
  .next (s.setFlagThen x (carryFlag (s.reg x) (s.reg y)) (sumByte (s.reg x) (s.reg y)))

/-- SUB Vx, Vy (R209). -/
def execSub (x y : Reg) (s : State) : Result :=
  .next (s.setFlagThen x (noBorrowFlag (s.reg x) (s.reg y)) (diffByte (s.reg x) (s.reg y)))

/-- SHR Vx (R210): V[y] is not read. -/
def execShr (x _y : Reg) (s : State) : Result := .next (s.setFlagThen x (shrFlag (s.reg x)) (shrByte (s.reg x)))

/-- SUBN Vx, Vy (R211). -/
def execSubn (x y : Reg) (s : State) : Result :=
  .next (s.setFlagThen x (noBorrowFlag (s.reg y) (s.reg x)) (diffByte (s.reg y) (s.reg x)))

/-- SHL Vx (R212): V[y] is not read. -/
def execShl (x _y : Reg) (s : State) : Result := .next (s.setFlagThen x (shlFlag (s.reg x)) (shlByte (s.reg x)))

end Sys2Proof.Machine
end

