-- ==== Sys2Proof/Machine/Operands.lean ====
section
/-! DEFINITION. The operand forms: skips, keys, glyphs, decimal digits and the bounds-checked memory blocks. -/

namespace Sys2Proof.Machine

/-- An address operand `nnn`, zero-extended (R102). -/
def addrOf (nnn : Addr) : Nat := nnn.toNat

/-- Step over the next two bytes when the condition holds (R170). -/
def State.skipIf (s : State) (c : Bool) : State := if c then s.skip else s

/-- Whether key number `k` is down; a number of 16 or more names no key (R280). -/
def State.keyDown (s : State) (k : Nat) : Bool := if h : k < 16 then s.keys[k] else false

/-- `pressed(k)` for an index held in a register (R280). -/
def State.pressed (s : State) (k : Byte) : Bool := s.keyDown k.toNat

/-- The first key that is down, in ascending order (R283). -/
def State.firstKey (s : State) : Option Nat := (List.range 16).find? s.keyDown

/-- The address of the glyph of a byte's low nibble (R305). -/
def glyphAddr (b : Byte) : Nat := Config.fontBase + 5 * (b.toNat % 16)

/-- The decimal digits of a byte: hundreds, tens, ones (R306). -/
def bcdDigits (b : Byte) : List Byte :=
  [BitVec.ofNat 8 (b.toNat / 100), BitVec.ofNat 8 (b.toNat / 10 % 10), BitVec.ofNat 8 (b.toNat % 10)]

/-- V[0], ..., V[x] (R307). -/
def State.regsTo (s : State) (x : Reg) : List Byte := s.v.toList.take (x.toNat + 1)

/-- `V[k], V[k + 1], ... <- bytes` (R308). -/
def loadRegs (v : Vector Byte 16) (k : Nat) : List Byte → Vector Byte 16
  | [] => v
  | b :: bs => loadRegs (v.setIfInBounds k b) (k + 1) bs

/-- `V[0], V[1], ... <- bytes` (R308). -/
def State.setRegsFrom0 (s : State) (bytes : List Byte) : State := { s with v := loadRegs s.v 0 bytes }

/-- Store bytes at I, or report `cause` and change nothing else when they would pass the end of memory (R76, R346). -/
def State.storeAtI (s : State) (cause : Event) (bytes : List Byte) : Result :=
  if s.i.toNat + bytes.length > Config.memSize then .next (s.report cause)
  else match s.memWrite s.i.toNat bytes with
    | .ok t => .next t
    | .error f => .fault f

/-- Use `n` bytes read at I, or report `cause` and change nothing else when they would pass the end of memory (R76, R346). -/
def State.loadAtI (s : State) (cause : Event) (n : Nat) (use : List Byte → State) : Result :=
  if s.i.toNat + n > Config.memSize then .next (s.report cause)
  else match s.memRead s.i.toNat n with
    | .ok bytes => .next (use bytes)
    | .error f => .fault f

end Sys2Proof.Machine
end

