-- ==== Sys2Proof/Machine/ControlFlow.lean ====
section
/-! DEFINITION. The control-flow instructions (41_control_flow.md). PC already holds the instruction's address + 2 (R34, R142). -/

namespace Sys2Proof.Machine

/-- JP nnn (R171). -/
def execJp (nnn : Addr) (s : State) : Result :=
  if Config.progBase ≤ addrOf nnn ∧ addrOf nnn < Config.jpLimit then .next (s.setPc (addrOf nnn))
  else .next (s.report .jumpRejected)

/-- CALL nnn (R172). The full reset is for a full stack, which check (c) lets no cycle bring here. -/
def execCall (nnn : Addr) (s : State) : Result :=
  match s.pushReturn with
  | some t => .next (t.setPc (addrOf nnn))
  | none => .next (s.raiseFullReset .stackOverflow)

/-- RET (R173). -/
def execRet (s : State) : Result :=
  match s.popReturn with
  | some t => .next t
  | none => .next (s.raiseFullReset .stackUnderflow)

/-- SE Vx, kk (R174). -/
def execSeImm (x : Reg) (kk : Byte) (s : State) : Result := .next (s.skipIf (s.reg x == kk))

/-- SNE Vx, kk (R175). -/
def execSneImm (x : Reg) (kk : Byte) (s : State) : Result := .next (s.skipIf (s.reg x != kk))

/-- SE Vx, Vy (R176). -/
def execSeReg (x y : Reg) (s : State) : Result := .next (s.skipIf (s.reg x == s.reg y))

/-- SNE Vx, Vy (R177). -/
def execSneReg (x y : Reg) (s : State) : Result := .next (s.skipIf (s.reg x != s.reg y))

/-- JP V0, nnn (R178): the exact sum, not checked. -/
def execJpV0 (nnn : Addr) (s : State) : Result := .next (s.setPc (addrOf nnn + (s.reg 0).toNat))

end Sys2Proof.Machine
end

