-- ==== Sys2Proof/Machine/Display.lean ====
section
/-! DEFINITION. The framebuffer writer: clear screen and sprite drawing (44_display.md). -/

namespace Sys2Proof.Machine

/-- `FB[x][y]`, the pixel at column `x`, row `y` (R9, R46); 0 outside the frame. -/
def pixelAt (fb : Framebuffer) (x y : Nat) : Byte := if h : x < 64 ∧ y < 32 then (fb[y]'h.2)[x]'h.1 else 0

/-- What a draw has done so far: `FB`, `collision`, `changed` (R252). -/
structure Canvas where
  fb : Framebuffer
  collision : Bool
  changed : Bool
  deriving DecidableEq, Repr

/-- One set sprite bit at column `x`, row `y`: the pixel flips, or is skipped outside the frame (R252, R255). -/
def togglePixel (x y : Nat) (c : Canvas) : Canvas :=
  if h : x < 64 ∧ y < 32 then
    { fb := c.fb.set y ((c.fb[y]'h.2).set x ((c.fb[y]'h.2)[x]'h.1 ^^^ 1) h.1) h.2
      collision := c.collision || (c.fb[y]'h.2)[x]'h.1 == 1
      changed := true }
  else c

/-- The columns `k`, `k + 1`, ..., 7 of a sprite row at row `y`, bit 7 being column 0 (R251). `fuel` counts the columns left. -/
def drawCols (row : Byte) (px y : Nat) : (fuel : Nat) → Canvas → Canvas
  | 0, c => c
  | fuel + 1, c =>
    drawCols row px y fuel (if row.getLsbD fuel then togglePixel (px + (7 - fuel)) y c else c)

/-- The rows of a sprite from row `y` down (R252). -/
def drawRows (px : Nat) : (y : Nat) → List Byte → Canvas → Canvas
  | _, [], c => c
  | y, row :: rest, c => drawRows px (y + 1) rest (drawCols row px y 8 c)

/-- Drawing the sprite `rows` with its top-left pixel at (px, py) (R252). -/
def drawSprite (fb : Framebuffer) (px py : Nat) (rows : List Byte) : Canvas :=
  drawRows px py rows { fb := fb, collision := false, changed := false }

/-- `FB` and, when a pixel changed, `REDRAW` (R252, R253). -/
def State.paint (s : State) (fb : Framebuffer) (changed : Bool) : State :=
  { s with fb := fb, redraw := s.redraw || changed }

/-- The end of a draw: `FB`, `VF <- collision`, and `REDRAW` if a pixel changed (R252). -/
def State.finishDraw (s : State) (c : Canvas) : State := (s.paint c.fb c.changed).setReg VF (collisionFlag c.collision)

/-- CLS (R250): `REDRAW` is set always. -/
def execCls (s : State) : Result := .next (s.paint blankFb true)

/-- DRW Vx, Vy, n (R252): the coordinates are read before VF is written. -/
def execDrw (x y : Reg) (n : Nibble) (s : State) : Result :=
  s.loadAtI .drawOob n.toNat fun rows => s.finishDraw (drawSprite s.fb (s.reg x).toNat (s.reg y).toNat rows)

end Sys2Proof.Machine
end

