-- ==== Sys2Proof/Machine/Keys.lean ====
section
/-! DEFINITION. The key instructions (45_keys.md). -/

namespace Sys2Proof.Machine

/-- SKP Vx (R281). -/
def execSkp (x : Reg) (s : State) : Result := .next (s.skipIf (s.pressed (s.reg x)))

/-- SKNP Vx (R282). -/
def execSknp (x : Reg) (s : State) : Result := .next (s.skipIf (!s.pressed (s.reg x)))

/-- LD Vx, K (R283): with no key down, PC goes back to this instruction. -/
def execLdVxK (x : Reg) (s : State) : Result :=
  match s.firstKey with
  | some k => .next (s.setReg x (BitVec.ofNat 8 k))
  | none => .next (s.rewind.report .keyWait)

end Sys2Proof.Machine
end

