-- ==== Sys2Proof/Machine/MemoryTimer.lean ====
section
/-! DEFINITION. The index, memory and timer instructions (46_memory_timer.md). -/

namespace Sys2Proof.Machine

/-- LD I, nnn (R300): not clamped. -/
def execLdI (nnn : Addr) (s : State) : Result := .next (s.setI (addrOf nnn))

/-- LD Vx, DT (R301): the value before this cycle's decrement. -/
def execLdVxDt (x : Reg) (s : State) : Result := .next (s.setReg x s.dt)

/-- LD DT, Vx (R302). -/
def execLdDtVx (x : Reg) (s : State) : Result := .next (s.setDt (s.reg x))

/-- LD ST, Vx (R303). -/
def execLdStVx (x : Reg) (s : State) : Result := .next (s.setSt (s.reg x))

/-- ADD I, Vx (R304): the exact sum, clamped into [0x050, 0xFFF]; VF is not written. -/
def execAddIVx (x : Reg) (s : State) : Result :=
  .next (s.setI (clamp (s.i.toNat + (s.reg x).toNat) Config.fontBase (Config.memSize - 1)))

/-- LD F, Vx (R305). -/
def execLdFVx (x : Reg) (s : State) : Result := .next (s.setI (glyphAddr (s.reg x)))

/-- LD B, Vx (R306). -/
def execLdBVx (x : Reg) (s : State) : Result := s.storeAtI .bcdOob (bcdDigits (s.reg x))

/-- LD [I], Vx (R307): I is unchanged. -/
def execLdMemVx (x : Reg) (s : State) : Result := s.storeAtI .blockOob (s.regsTo x)

/-- LD Vx, [I] (R308): I is unchanged. -/
def execLdVxMem (x : Reg) (s : State) : Result := s.loadAtI .blockOob (x.toNat + 1) s.setRegsFrom0

end Sys2Proof.Machine
end

