-- ==== Sys2Proof/Machine/Random.lean ====
section
/-! DEFINITION. The random instruction (43_random.md). -/

namespace Sys2Proof.Machine

/-- RND Vx, kk (R241): the draw is consumed whatever the mask. -/
def execRnd (x : Reg) (kk : Byte) (s : State) : Result := .next (s.consumeDraw.setReg x (s.rand &&& kk))

end Sys2Proof.Machine
end

