-- ==== Sys2Proof/Machine/Step.lean ====
section
/-! DEFINITION. One step is one CYCLE transaction (40_cycle.md R152). -/

namespace Sys2Proof.Machine

/-- `cycle()`: clamp, fetch and advance; the checks and the dispatch; the instruction; the counter and the timers (R152). KEY and
the random byte are the state's own (log 3, log 8). -/
def step (s : State) : Host.Outcome State Fault Refusal :=
  match s.beginCycle with
  | .error f => .fault f
  | .ok c =>
    match c.dispatch with
    | .ended t => .next t
    | .run i =>
      match exec i c with
      | .next t => .next t.endCycle
      | .fault f => .fault f
      | .refused r => .refused r

/-- `s` with the instruction of an opcode-table word where the next step fetches (log 12). -/
def State.withFetchWord (s : State) (nbits w : Nat) : State := s.placeWord (tableWord nbits w)

end Sys2Proof.Machine
end

