-- ==== Sys2Proof/Machine/Transactions.lean ====
section
/-! DEFINITION. The host's transactions (10_state.md R53, 60_exceptions.md R360): what the outside can do to the machine, between
cycles only. CYCLE is `step`. -/

namespace Sys2Proof.Machine

/-- What LOAD reports (R386). It is an answer to the host and no state: a failed LOAD leaves the machine unmodified (R387, log 8). -/
inductive LoadStatus where
  /-- The image is empty (R387). -/
  | empty
  /-- The image was longer than 3584 bytes (R388). -/
  | truncated
  /-- The whole image was copied (R386). -/
  | ok
  deriving DecidableEq, Repr

/-- The transactions of R53 with their inputs. -/
inductive Transaction where
  /-- CONSTRUCT (R380). -/
  | construct
  /-- LOAD(image) (R386). -/
  | load (image : List Byte)
  /-- CYCLE, with the random byte for this cycle (R53, R240); KEY is as SET_KEYS left it (R280). -/
  | cycle (draw : Byte)
  /-- RESET (R385). -/
  | reset
  /-- SET_KEYS(k). -/
  | setKeys (k : Vector Bool 16)
  /-- READ_FB. -/
  | readFb
  /-- CLEAR_REDRAW (R44). -/
  | clearRedraw
  deriving DecidableEq, Repr

/-- What a transaction gives back (R53). -/
inductive Response where
  | nothing
  /-- LOAD's status. -/
  | loaded (status : LoadStatus)
  /-- CYCLE's event code, FB and REDRAW. -/
  | cycled (event : Event) (fb : List Byte) (redraw : Bool)
  /-- READ_FB's FB and REDRAW. -/
  | frame (fb : List Byte) (redraw : Bool)
  deriving DecidableEq, Repr

/-- The framebuffer's 2048 bytes in row-major order: byte `y * 64 + x` is pixel (x, y) (R46). -/
def fbBytes (fb : Framebuffer) : List Byte := (fb.toList.map Vector.toList).flatten

/-- CONSTRUCT (R380): every element to its construction value. The host's random bytes and the count of free draws stay, so that two
constructions need not draw the same bytes (U2, log 8). -/
def State.reconstruct (s : State) : State :=
  { State.construct s.params with draws := s.draws, freeDraws := s.freeDraws }

/-- LOAD's status for an image (R386). -/
def loadStatus (image : List Byte) : LoadStatus :=
  if image.length = 0 then .empty else if image.length > Config.progMax then .truncated else .ok

/-- LOAD's effect: the first min(L, 3584) bytes to 0x200 and up; nothing for an empty image (R386, R389). -/
def State.load (s : State) (image : List Byte) : State := s.pokeBytes Config.progBase (image.take Config.progMax)

/-- The random byte offered to the next cycle; it replaces one that no RND took (R53, log 8). -/
def State.offerDraw (s : State) (draw : Byte) : State := { s with draws := [draw] }

/-- SET_KEYS's effect (R47). -/
def State.setKeys (s : State) (k : Vector Bool 16) : State := { s with keys := k }

/-- CLEAR_REDRAW's effect (R44). -/
def State.clearRedraw (s : State) : State := { s with redraw := false }

/-- One transaction: the machine after it, and what the host gets back (R53, R360). -/
def transact (t : Transaction) (s : State) : Host.Outcome (State × Response) Fault Refusal :=
  match t with
  | .construct => .next (s.reconstruct, .nothing)
  | .load image => .next (s.load image, .loaded (loadStatus image))
  | .cycle draw =>
    match step (s.offerDraw draw) with
    | .next u => .next (u, .cycled u.event (fbBytes u.fb) u.redraw)
    | .fault f => .fault f
    | .refused r => .refused r
  | .reset => .next (s.fullReset, .nothing)
  | .setKeys k => .next (s.setKeys k, .nothing)
  | .readFb => .next (s, .frame (fbBytes s.fb) s.redraw)
  | .clearRedraw => .next (s.clearRedraw, .nothing)

end Sys2Proof.Machine
end

