-- ==== Sys2Proof/WellFormed.lean ====
section
/-! DEFINITION. What makes an instruction well formed: each operand fits its field (30_encoding.md R102). The operand checks are
on plain numbers, as an assembler meets them (R115); the fields' types carry the checks, so an `Instr` is always well formed. -/

namespace Sys2Proof

/-- A number names a register when it is 0..15 (R30, R102). -/
def regOperand (k : Nat) : Option Reg := if k < 16 then some (BitVec.ofNat 4 k) else none

/-- A number is an immediate `kk` when it is 0x00..0xFF (R102, R115). -/
def byteOperand (k : Nat) : Option Byte := if k < 256 then some (BitVec.ofNat 8 k) else none

/-- A number is an address `nnn` when it is 0x000..0xFFF (R102, R115). -/
def addrOperand (k : Nat) : Option Addr := if k < 4096 then some (BitVec.ofNat 12 k) else none

/-- A number is a height `n` when it is 0..15 (R102, R115). -/
def nibbleOperand (k : Nat) : Option Nibble := if k < 16 then some (BitVec.ofNat 4 k) else none

/-- Every operand passes its check. -/
abbrev Instr.WellFormed : Instr → Prop
  | .cls | .ret => True
  | .jp nnn | .call nnn | .ldI nnn | .jpV0 nnn => addrOperand nnn.toNat = some nnn
  | .seImm x kk | .sneImm x kk | .ldImm x kk | .addImm x kk | .rnd x kk =>
      regOperand x.toNat = some x ∧ byteOperand kk.toNat = some kk
  | .seReg x y | .sneReg x y | .ldReg x y | .or x y | .and x y | .xor x y | .addReg x y | .sub x y | .shr x y | .subn x y
  | .shl x y => regOperand x.toNat = some x ∧ regOperand y.toNat = some y
  | .drw x y n => regOperand x.toNat = some x ∧ regOperand y.toNat = some y ∧ nibbleOperand n.toNat = some n
  | .skp x | .sknp x | .ldVxDt x | .ldVxK x | .ldDtVx x | .ldStVx x | .addIVx x | .ldFVx x | .ldBVx x | .ldMemVx x
  | .ldVxMem x => regOperand x.toNat = some x

end Sys2Proof
end

