-- ==== Sys2Proof/Safety.lean ====
section
/-! DEFINITION. The terms the claims are stated in: what a cycle fetches, what a change leaves alone, and the ranges every reachable
state keeps. -/

namespace Sys2Proof.Machine

/-! ### What a cycle fetches -/

/-- The word a cycle fetches: two bytes, the one at the clamped PC high (R140, R141, R72). -/
def State.fetchedWord (s : State) : Word := wordOfBytes (s.readByte s.fetchAddr) (s.readByte (s.fetchAddr + 1))

/-- The state an instruction executes in: PC the instruction's address + 2, OPC the word, no event yet (R34, R42, R148). -/
def State.fetched (s : State) : State :=
  { s with pc := BitVec.ofNat 16 (s.fetchAddr + 2), opc := s.fetchedWord, event := .none }

/-- The word this cycle fetches dispatches to `i` (R149). -/
def State.Dispatches (s : State) (i : Instr) : Prop := decode s.fetchedWord = .instr i ∧ s.sp.val < Config.stackDepth

/-- The word this cycle fetches raises the invalid-opcode event: at check (b), or, with room on the stack, at dispatch (R144, R147,
R349). -/
def State.RaisesInvalid (s : State) : Prop :=
  decode s.fetchedWord = .invalid .fRange ∨ (decode s.fetchedWord = .invalid .selector ∧ s.sp.val < Config.stackDepth)

/-- What a step makes of its instruction's result: the end of the cycle after a next state (R150, R151). -/
def finishCycle : Result → Result
  | .next t => .next t.endCycle
  | .fault f => .fault f
  | .refused r => .refused r

/-! ### What a change leaves alone -/

/-- The fields of the state. -/
inductive Field where
  | v | pc | i | sp | stack | dt | st | opc | invalidCount | redraw | fb | keys | mem | event | draws | freeDraws | params
  deriving DecidableEq, Repr

/-- One field is the same in both states; memory is the same when every byte reads the same. -/
def State.SameIn (s t : State) : Field → Prop
  | .v => t.v = s.v
  | .pc => t.pc = s.pc
  | .i => t.i = s.i
  | .sp => t.sp = s.sp
  | .stack => t.stack = s.stack
  | .dt => t.dt = s.dt
  | .st => t.st = s.st
  | .opc => t.opc = s.opc
  | .invalidCount => t.invalidCount = s.invalidCount
  | .redraw => t.redraw = s.redraw
  | .fb => t.fb = s.fb
  | .keys => t.keys = s.keys
  | .mem => ∀ a, t.readByte a = s.readByte a
  | .event => t.event = s.event
  | .draws => t.draws = s.draws
  | .freeDraws => t.freeDraws = s.freeDraws
  | .params => t.params = s.params

/-- Every field but the listed ones is the same. -/
def State.SameBut (s t : State) (changed : List Field) : Prop := ∀ f, f ∉ changed → s.SameIn t f

/-- Every general register but the listed ones is the same. -/
def State.RegsSameBut (s t : State) (changed : List Reg) : Prop := ∀ r, r ∉ changed → t.reg r = s.reg r

/-- Every byte outside the `n` bytes at `a` reads the same. -/
def State.BytesSameOutside (s t : State) (a n : Nat) : Prop := ∀ b, ¬(a ≤ b ∧ b < a + n) → t.readByte b = s.readByte b

/-- `t` is `s` after a full reset (R383), the fields `also` left open; every other field is kept (R384). -/
def State.FullyReset (s t : State) (also : List Field) : Prop :=
  (∀ r, t.reg r = 0) ∧ (∀ k : Fin 16, t.stack[k] = 0) ∧ t.sp = 0 ∧ t.pc = 0x200 ∧ t.i = 0 ∧
    s.SameBut t ([.v, .stack, .sp, .pc, .i] ++ also)

/-! ### Sprites -/

/-- The sprite of `n` rows at I, drawn at (px, py), has a set bit on the pixel at column `x`, row `y` (R251, R252). -/
def State.SpriteSets (s : State) (px py n x y : Nat) : Prop :=
  px ≤ x ∧ x < px + 8 ∧ py ≤ y ∧ y < py + n ∧ (s.readByte (s.i.toNat + (y - py))).getLsbD (7 - (x - px)) = true

/-! ### The ranges of every reachable state -/

/-- The legal values of the state (R37, R43, R45, R46, R70): what construction establishes and every transaction keeps. -/
structure State.Legal (s : State) : Prop where
  /-- PC is at most 0x10FE (R37). -/
  pc_le : s.pc.toNat ≤ 0x10FE
  /-- I is an address of memory (R37). -/
  i_le : s.i.toNat ≤ 0xFFF
  /-- A stack entry is 0 or a PC after increment, 0x202..0x1000 (R39, R45). -/
  stack_range : ∀ k : Fin 16, s.stack[k] = 0 ∨ (0x202 ≤ s.stack[k].toNat ∧ s.stack[k].toNat ≤ 0x1000)
  /-- Between cycles the counter holds 0..10 (R43). -/
  count_le : s.invalidCount ≤ Config.invalidLimit
  /-- A pixel is 0 or 1 (R46). -/
  pixel_bit : ∀ x y, pixelAt s.fb x y = 0 ∨ pixelAt s.fb x y = 1
  /-- Memory is in its canonical form (R70, log 9). -/
  mem_wf : Memory.wf s.params s.mem = true

end Sys2Proof.Machine
end

