-- ==== Sys2Proof/Certificates/Slice0/Obligations.lean ====
section
/-! DEFINITION. The statements for the provers. Each docstring names the rules it formalises; where a rule rests on a decision of
92_eei_decisions.md (D<n>) or on general knowledge (G<n>), which the spec marks as its own, the docstring says so. -/

open Sys2Proof Sys2Proof.Machine

/-! ### Encoding (30_encoding.md) -/

/-- Every instruction, with every value of its operands, is what its canonical word decodes to (R105, R113, R115; the bit patterns
are the spec's supply, G1, D2, log 5). -/
def Obligations.EncodeThenDecodeGivesTheInstruction : Prop := ∀ i : Instr, decode (encode i) = .instr i

/-- A word that decodes to an instruction is that instruction's canonical word but for the bits the decoder ignores (R105, R110;
log 5). -/
def Obligations.DecodeThenEncodeGivesTheWordBack : Prop :=
  ∀ (w : Word) (i : Instr), decode w = .instr i → encode i &&& ~~~ignoredBits i = w &&& ~~~ignoredBits i

/-- A word decodes by the row it lies on, lies on one row at most, is invalid exactly when it lies on none, and is INVALID_F_RANGE
exactly when it is of family 0xF with a low byte above 0x65 (R105, R109, R111, R113; log 5). -/
def Obligations.WordsDecodeByTheirRow : Prop :=
  ∀ w : Word,
    (∀ i, decode w = .instr i → w &&& (rowOf i).2 = (rowOf i).1) ∧
    (∀ r ∈ opcodeRows, ∀ q ∈ opcodeRows, w &&& r.2 = r.1 → w &&& q.2 = q.1 → r = q) ∧
    ((∃ why, decode w = .invalid why) ↔ ∀ r ∈ opcodeRows, w &&& r.2 ≠ r.1) ∧
    (decode w = .invalid .fRange ↔ fieldF w = 0xF#4 ∧ 0x65 < (fieldKK w).toNat)

/-- A word of each format, its bits written out by hand from the spec's formats and rows, decodes to its instruction (R101, R105;
log 5). -/
def Obligations.WrittenWordsDecode : Prop :=
  decode 0b0000000011101110#16 = .instr .ret ∧ decode 0b0010001100000001#16 = .instr (.call 0x301#12) ∧
  decode 0b0011001101000010#16 = .instr (.seImm 3#4 0x42#8) ∧ decode 0b1000000100100101#16 = .instr (.sub 1#4 2#4) ∧
  decode 0b1001000100100111#16 = .instr (.sneReg 1#4 2#4) ∧ decode 0b1101000100101111#16 = .instr (.drw 1#4 2#4 15#4) ∧
  decode 0b1110001010011110#16 = .instr (.skp 2#4) ∧ decode 0b1111101000110011#16 = .instr (.ldBVx 10#4)

/-! ### The cycle (40_cycle.md) -/

/-- Fetch is big-endian and has no other effect (R72, R141). -/
def Obligations.FetchReadsTwoBytesHighFirst : Prop :=
  ∀ s : State, s.pc.toNat ≤ 0xFFE → ∃ t, s.fetch = .ok t ∧
    t.opc.toNat = (s.readByte s.pc.toNat).toNat * 256 + (s.readByte (s.pc.toNat + 1)).toNat ∧ s.SameBut t [.opc]

/-- A cycle clamps PC into [0x200, 0xFFE], fetches there and advances by two; the event output is NONE in that state, which is
the model's reading, log 4 (R140 to R142, R348; saturation is D23, the order D24). -/
def Obligations.CycleBeginsWithClampFetchAdvance : Prop :=
  ∀ s : State, ∃ c p, p = min (max s.pc.toNat 0x200) 0xFFE ∧ s.beginCycle = .ok c ∧ c.pc.toNat = p + 2 ∧
    c.opc.toNat = (s.readByte p).toNat * 256 + (s.readByte (p + 1)).toNat ∧ c.event = .none ∧
    s.SameBut c [.pc, .opc, .event]

/-- When the bytes at the clamped PC decode to an instruction and the stack has room, the step is that instruction's execution, with
PC two past it, and then the end of the cycle; the event output at NONE when the instruction starts is the model's reading, log 4
(R147, R148, R152). -/
def Obligations.StepRunsTheDecodedInstruction : Prop :=
  ∀ (s : State) (i : Instr),
    decodeBytes (s.readByte s.fetchAddr) (s.readByte (s.fetchAddr + 1)) = .instr i → s.sp.val < 16 →
    s.fetched.pc.toNat = s.fetchAddr + 2 ∧ step s = finishCycle (exec i s.fetched)

/-- After an instruction both timers drop by one, floored at zero, the counter is cleared only under the parameter, and nothing else
changes (R150, R151; D5, D6, log 2). -/
def Obligations.TimersTickAfterEachInstruction : Prop :=
  ∀ (s : State) (i : Instr) (u : State), s.Dispatches i → exec i s.fetched = .next u →
    ∃ t, step s = .next t ∧ t.dt.toNat = u.dt.toNat - 1 ∧ t.st.toNat = u.st.toNat - 1 ∧
      t.invalidCount = (if s.params.invalidCountClearsOnValid then 0 else u.invalidCount) ∧
      u.SameBut t [.dt, .st, .invalidCount]

/-- Every cycle ends in a next state: no step faults and none is refused (R153). -/
def Obligations.EveryCycleEnds : Prop := ∀ s : State, ∃ t, step s = .next t

/-! ### Events (60_exceptions.md) -/

/-- Ten invalid words do not reset; the one that raises the counter above 10 performs a full reset and clears the counter, memory,
framebuffer, REDRAW and timers unchanged, and reports INVALID_ESCALATION, an event code of the spec's own (R341, R343, R348; D30). -/
def Obligations.EleventhInvalidWordResets : Prop :=
  ∀ s : State, s.RaisesInvalid → ∃ t, step s = .next t ∧
    if s.invalidCount < 10 then
      t.invalidCount = s.invalidCount + 1 ∧ s.SameBut t [.pc, .opc, .event, .invalidCount, .dt, .st]
    else
      t.invalidCount = 0 ∧ t.event = .invalidEscalation ∧ s.FullyReset t [.opc, .event, .invalidCount]

/-- An invalid word below the limit restarts the program at 0x200, counts one, reports INVALID_OPCODE, and leaves everything else,
timers included (R341, R350; the timers are D34, the event code D30). -/
def Obligations.InvalidWordRestartsAndCounts : Prop :=
  ∀ s : State, s.RaisesInvalid → s.invalidCount < 10 → ∃ t, step s = .next t ∧ t.pc = 0x200 ∧ t.event = .invalidOpcode ∧
    t.opc = s.fetchedWord ∧ t.invalidCount = s.invalidCount + 1 ∧ s.SameBut t [.pc, .opc, .event, .invalidCount]

/-- With a full stack, any word but one check (b) rejects gives a full reset instead of executing and reports STACK_OVERFLOW; timers
and counter do not change (R145, R349; D24, D30, D34). -/
def Obligations.FullStackResetsBeforeDispatch : Prop :=
  ∀ s : State, s.sp.val = 16 → decode s.fetchedWord ≠ .invalid .fRange →
    ∃ t, step s = .next t ∧ t.event = .stackOverflow ∧ s.FullyReset t [.opc, .event]

/-- With a full stack, a word of family 0xF with a low byte above 0x65 is still an invalid opcode, and the stack stays full (R144,
R349; the order is D24, the event code D30, the value 0x65 G4). -/
def Obligations.SelectorRangeIsCheckedBeforeTheStack : Prop :=
  ∀ s : State, fieldF s.fetchedWord = 0xF#4 → 0x65 < (fieldKK s.fetchedWord).toNat → s.invalidCount < 10 →
    ∃ t, step s = .next t ∧ t.event = .invalidOpcode ∧ t.sp = s.sp ∧ t.invalidCount = s.invalidCount + 1

/-- An invalid word at the entry address gives ten INVALID_OPCODE cycles and then one INVALID_ESCALATION cycle (R351; the event codes
are D30). -/
def Obligations.InvalidWordAtEntryEscalatesEveryElevenCycles : Prop :=
  ∀ s : State, s.pc = 0x200 → s.sp.val < 16 → s.invalidCount = 0 → (∃ why, decode s.fetchedWord = .invalid why) →
    (∀ k, 1 ≤ k → k ≤ 10 → ∃ t : State, Sys2Proof.core.run k s = .next t ∧ t.pc = 0x200 ∧ t.event = .invalidOpcode ∧
      t.invalidCount = k ∧ s.SameBut t [.opc, .event, .invalidCount]) ∧
    ∃ t : State, Sys2Proof.core.run 11 s = .next t ∧ t.event = .invalidEscalation ∧ t.invalidCount = 0 ∧
      s.FullyReset t [.opc, .event]

/-- A jump to itself is the conventional stop: however many cycles run, only the timers fall (to zero), OPC and the event settle, and
the counter clears under the parameter (R362; D38, the event code D30). -/
def Obligations.JumpToSelfOnlyRunsTheTimers : Prop :=
  ∀ (s : State) (nnn : Addr), 0x200 ≤ nnn.toNat → nnn.toNat < 0xFFE → s.pc.toNat = nnn.toNat → s.sp.val < 16 →
    decode s.fetchedWord = .instr (.jp nnn) → ∀ n, 1 ≤ n → ∃ t : State, Sys2Proof.core.run n s = .next t ∧
      t.dt.toNat = s.dt.toNat - n ∧ t.st.toNat = s.st.toNat - n ∧ t.opc = s.fetchedWord ∧ t.event = .none ∧
      t.invalidCount = (if s.params.invalidCountClearsOnValid then 0 else s.invalidCount) ∧
      s.SameBut t [.dt, .st, .opc, .event, .invalidCount]

/-! ### Construction, reset and the host (10_state.md, 70_reset_and_hazards.md) -/

/-- Construction: everything zero, PC at 0x200, and the glyph table of FONT at 0x050 + 5 d + r, for every FONT (R51, R52, R380; D33;
the event output and the waiting draws, which the spec gives no value, are not claimed). -/
def Obligations.ConstructionValues : Prop :=
  ∀ p : Config.Params,
    let s := State.construct p
    (∀ r, s.reg r = 0) ∧ s.pc = 0x200 ∧ s.i = 0 ∧ s.sp = 0 ∧ (∀ k : Fin 16, s.stack[k] = 0) ∧ s.dt = 0 ∧ s.st = 0 ∧ s.opc = 0 ∧
    s.invalidCount = 0 ∧ s.redraw = false ∧ (∀ x y, pixelAt s.fb x y = 0) ∧ (∀ k : Fin 16, s.keys[k] = false) ∧ s.params = p ∧
    (∀ (d : Fin 16) (r : Fin 5), s.readByte (0x050 + 5 * d.val + r.val) = (p.font[d])[r]) ∧
    (∀ a, a < 0x050 ∨ 0x0A0 ≤ a → s.readByte a = 0)

/-- RESET is the full reset: V, STACK, SP and I to 0, PC to 0x200, all else kept (R383, R384, R385; D7). -/
def Obligations.ResetTransactionIsTheFullReset : Prop :=
  ∀ s : State, ∃ t, transact .reset s = .next (t, .nothing) ∧ s.FullyReset t []

/-- LOAD copies the first min(L, 3584) bytes to 0x200 and up, reports its status, and changes nothing else (R386, R388, R389; D25,
D42, D43). -/
def Obligations.LoadCopiesTheImage : Prop :=
  ∀ (s : State) (image : List Byte), ∃ t status, transact (.load image) s = .next (t, .loaded status) ∧
    (status = .empty ↔ image.length = 0) ∧ (status = .truncated ↔ 3584 < image.length) ∧
    (∀ k (h : k < image.length), k < 3584 → t.readByte (0x200 + k) = image[k]) ∧
    s.BytesSameOutside t 0x200 (min image.length 3584) ∧ s.SameBut t [.mem]

/-- LOAD of no bytes fails and leaves the machine unmodified (R387). -/
def Obligations.EmptyImageLeavesTheMachineUnmodified : Prop :=
  ∀ s : State, transact (.load []) s = .next (s, .loaded .empty)

/-- CONSTRUCT gives the construction state, whatever came before, but for the random source, which is left open; SET_KEYS writes KEY
alone, and CLEAR_REDRAW writes REDRAW alone; that the event output is NONE after CONSTRUCT is the model's choice, log 4, where the
spec gives no value (R53, R360, R380; D1; the random source is log 3 and log 8). -/
def Obligations.HostTransactionsWriteOnlyTheirOwn : Prop :=
  ∀ s : State,
    (∃ t, transact .construct s = .next (t, .nothing) ∧ (State.construct s.params).SameBut t [.draws, .freeDraws]) ∧
    (∀ k, ∃ t, transact (.setKeys k) s = .next (t, .nothing) ∧ t.keys = k ∧ s.SameBut t [.keys]) ∧
    (∃ t, transact .clearRedraw s = .next (t, .nothing) ∧ t.redraw = false ∧ s.SameBut t [.redraw])

/-- READ_FB changes nothing and gives the 2048 pixels in row-major order, and REDRAW (R46, R53). -/
def Obligations.ReadFbGivesThePixelsRowMajor : Prop :=
  ∀ s : State, ∃ bytes, transact .readFb s = .next (s, .frame bytes s.redraw) ∧ bytes.length = 2048 ∧
    ∀ x y, x < 64 → y < 32 → bytes[y * 64 + x]? = some (pixelAt s.fb x y)

/-! ### Invariants and whole-machine rules -/

/-- Every step keeps the legal ranges: PC at most 0x10FE, I at most 0xFFF, stack entries 0 or 0x202..0x1000, the counter 0..10, pixels
0 or 1, memory in canonical form (R37, R39, R43, R45, R46; the last is the model's, log 9). -/
def Obligations.StepKeepsTheLegalRanges : Prop := ∀ s t : State, s.Legal → step s = .next t → t.Legal

/-- The machine after reset, and the machine just constructed with any parameters, is legal (R51). -/
def Obligations.ConstructionIsLegal : Prop := State.reset.Legal ∧ ∀ p : Config.Params, (State.construct p).Legal

/-- Every transaction of the host keeps the legal ranges (R53, R360). -/
def Obligations.TransactionsKeepTheLegalRanges : Prop :=
  ∀ (x : Transaction) (s t : State) (r : Response), s.Legal → transact x s = .next (t, r) → t.Legal

/-- From a legal state, only JP V0 leaves PC above 0x1002 (R37). -/
def Obligations.OnlyIndexedJumpsLeavePcPastTheEnd : Prop :=
  ∀ s t : State, s.Legal → step s = .next t → 0x1002 < t.pc.toNat → ∃ nnn, s.Dispatches (.jpV0 nnn)

/-- The framebuffer and REDRAW change only in a cycle that runs CLS or DRW (R44, R46, R356). -/
def Obligations.OnlyClsAndDrwWriteTheDisplay : Prop :=
  ∀ s t : State, step s = .next t → t.fb ≠ s.fb ∨ t.redraw ≠ s.redraw →
    s.Dispatches .cls ∨ ∃ x y n, s.Dispatches (.drw x y n)

/-- A byte of memory changes only in a cycle that runs LD B, within three bytes of I, or LD [I], Vx, within x + 1 bytes of I, and
never past the end of memory (R71, R75, R76, R77). -/
def Obligations.OnlyStoresWriteMemory : Prop :=
  ∀ (s t : State) (a : Nat), step s = .next t → t.readByte a ≠ s.readByte a →
    a < 4096 ∧ s.i.toNat ≤ a ∧ ∃ x, (s.Dispatches (.ldBVx x) ∧ a < s.i.toNat + 3) ∨
      (s.Dispatches (.ldMemVx x) ∧ a ≤ s.i.toNat + x.toNat)

/-- I changes only in a cycle that runs LD I, ADD I or LD F, or by a full reset, which makes it 0 (R35; the event codes that
name a full reset are D30). -/
def Obligations.OnlyIndexInstructionsAndResetsWriteI : Prop :=
  ∀ s t : State, step s = .next t → t.i ≠ s.i →
    (∃ nnn, s.Dispatches (.ldI nnn)) ∨ (∃ x, s.Dispatches (.addIVx x) ∨ s.Dispatches (.ldFVx x)) ∨
    (t.i = 0 ∧ (t.event = .invalidEscalation ∨ t.event = .stackOverflow ∨ t.event = .stackUnderflow))

/-- The core never writes KEY, never clears REDRAW, and never changes its parameters (R44, R47, R360; log 1, log 2). -/
def Obligations.CoreNeverWritesTheHostsState : Prop :=
  ∀ s t : State, step s = .next t → t.keys = s.keys ∧ t.params = s.params ∧ (s.redraw = true → t.redraw = true)

/-- No valid instruction raises the invalid-opcode event or touches its counter, and none writes OPC (R42, R344). -/
def Obligations.ValidInstructionsRaiseNoInvalidEvent : Prop :=
  ∀ (i : Instr) (s t : State), exec i s = .next t → t.invalidCount = s.invalidCount ∧ t.opc = s.opc ∧
    (t.event ≠ s.event → t.event ≠ .invalidOpcode ∧ t.event ≠ .invalidEscalation)

/-- What only the host reads does not feed back: a run's other state does not depend on ST, OPC, the event output or REDRAW (R40, R41,
R42, R348; D37). -/
def Obligations.OutputsDoNotFeedBack : Prop :=
  ∀ (s t : State) (st : Byte) (opc : Word) (event : Event) (redraw : Bool), step s = .next t →
    ∃ st' redraw', step { s with st := st, opc := opc, event := event, redraw := redraw }
      = .next { t with st := st', redraw := redraw' }

/-- Only RND uses the random-byte source: in every other cycle the waiting bytes matter to nothing and are kept (R240; D27, log 3). -/
def Obligations.OnlyRndUsesTheRandomSource : Prop :=
  ∀ (s t : State) (draws : List Byte) (k : Nat), (∀ x kk, ¬s.Dispatches (.rnd x kk)) → step s = .next t →
    step { s with draws := draws, freeDraws := k } = .next { t with draws := draws, freeDraws := k }

/-! ### Control flow (41_control_flow.md) -/

/-- JP nnn: taken into [0x200, 0xFFE), else it falls through and reports (R171). -/
def Obligations.JpTakesOnlyTargetsInRange : Prop :=
  ∀ (s : State) (nnn : Addr),
    (∀ w, fieldF w = 0x1#4 → fieldNNN w = nnn → decode w = .instr (.jp nnn)) ∧
    ∃ t, exec (.jp nnn) s = .next t ∧
      if 0x200 ≤ nnn.toNat ∧ nnn.toNat < 0xFFE then t.pc.toNat = nnn.toNat ∧ s.SameBut t [.pc]
      else t.event = .jumpRejected ∧ s.SameBut t [.event]

/-- CALL nnn: with room it pushes PC and jumps, the target unchecked; with SP = 16 it is a full reset (R172; D20, the event code D30). -/
def Obligations.CallPushesAndJumps : Prop :=
  ∀ (s : State) (nnn : Addr),
    (∀ h : s.sp.val < 16, ∃ t, exec (.call nnn) s = .next t ∧ t.pc.toNat = nnn.toNat ∧ t.sp.val = s.sp.val + 1 ∧
      t.stack[s.sp.val] = s.pc ∧ (∀ k : Fin 16, k.val ≠ s.sp.val → t.stack[k] = s.stack[k]) ∧ s.SameBut t [.pc, .sp, .stack]) ∧
    (s.sp.val = 16 → ∃ t, exec (.call nnn) s = .next t ∧ t.event = .stackOverflow ∧ s.FullyReset t [.event])

/-- RET: it pops PC and keeps the entry; on an empty stack it is a full reset (R173; D40, the event code D30). -/
def Obligations.RetPopsOrResets : Prop :=
  ∀ s : State,
    (∀ h : 0 < s.sp.val, ∃ t, exec .ret s = .next t ∧ t.sp.val = s.sp.val - 1 ∧ t.pc = s.stack[s.sp.val - 1] ∧
      s.SameBut t [.sp, .pc]) ∧
    (s.sp.val = 0 → ∃ t, exec .ret s = .next t ∧ t.event = .stackUnderflow ∧ s.FullyReset t [.event])

/-- RET undoes CALL but for the entry left in the stack, which holds the return address; every other entry and every other field is
as before the call (R39, R172, R173; D20, D36, D40). -/
def Obligations.RetReturnsToTheCaller : Prop :=
  ∀ (s : State) (nnn : Addr) (_ : s.sp.val < 16),
    ∃ t u, exec (.call nnn) s = .next t ∧ exec .ret t = .next u ∧ u.stack[s.sp.val] = s.pc ∧
      (∀ k : Fin 16, k.val ≠ s.sp.val → u.stack[k] = s.stack[k]) ∧ s.SameBut u [.stack]

/-- JP V0, nnn: the exact sum, unchecked and unwrapped (R178; D21). -/
def Obligations.JpV0AddsWithoutWrap : Prop :=
  ∀ (s : State) (nnn : Addr), ∃ t, exec (.jpV0 nnn) s = .next t ∧ t.pc.toNat = nnn.toNat + (s.reg 0#4).toNat ∧
    s.SameBut t [.pc]

/-- SE and SNE Vx, kk: skip two bytes on equal, or unequal; nothing else changes (R170, R174, R175; D41, encodings G1). -/
def Obligations.ImmediateSkips : Prop :=
  ∀ (s : State) (x : Reg) (kk : Byte),
    (∃ t, exec (.seImm x kk) s = .next t ∧ t.pc = (if s.reg x = kk then s.pc + 2 else s.pc) ∧ s.SameBut t [.pc]) ∧
    (∃ t, exec (.sneImm x kk) s = .next t ∧ t.pc = (if s.reg x = kk then s.pc else s.pc + 2) ∧ s.SameBut t [.pc])

/-- SE and SNE Vx, Vy, for every low nibble of the word, 0 in the canonical one: skip on equal, or unequal (R176, R177). -/
def Obligations.RegisterSkips : Prop :=
  ∀ (s : State) (x y : Reg),
    (∀ w, fieldF w = 0x5#4 → fieldX w = x → fieldY w = y → decode w = .instr (.seReg x y)) ∧
    (∀ w, fieldF w = 0x9#4 → fieldX w = x → fieldY w = y → decode w = .instr (.sneReg x y)) ∧
    fieldN (encode (.seReg x y)) = 0 ∧ fieldN (encode (.sneReg x y)) = 0 ∧
    (∃ t, exec (.seReg x y) s = .next t ∧ t.pc = (if s.reg x = s.reg y then s.pc + 2 else s.pc) ∧ s.SameBut t [.pc]) ∧
    (∃ t, exec (.sneReg x y) s = .next t ∧ t.pc = (if s.reg x = s.reg y then s.pc else s.pc + 2) ∧ s.SameBut t [.pc])

/-! ### Arithmetic, logic and random (42_arith_logic.md, 43_random.md) -/

/-- LD Vx, kk and ADD Vx, kk write V[x] alone; the sum is mod 256 and VF is no flag (R202, R203; D11, encodings G1). -/
def Obligations.ImmediateLoadAndAdd : Prop :=
  ∀ (s : State) (x : Reg) (kk : Byte),
    (∃ t, exec (.ldImm x kk) s = .next t ∧ t.reg x = kk ∧ s.RegsSameBut t [x] ∧ s.SameBut t [.v]) ∧
    (∃ t, exec (.addImm x kk) s = .next t ∧ (t.reg x).toNat = ((s.reg x).toNat + kk.toNat) % 256 ∧ s.RegsSameBut t [x] ∧
      s.SameBut t [.v])

/-- LD Vx, Vy copies a register and writes nothing else (R204). -/
def Obligations.RegisterMove : Prop :=
  ∀ (s : State) (x y : Reg),
    (∀ w, fieldF w = 0x8#4 → fieldN w = 0x0#4 → fieldX w = x → fieldY w = y → decode w = .instr (.ldReg x y)) ∧
    ∃ t, exec (.ldReg x y) s = .next t ∧ t.reg x = s.reg y ∧ s.RegsSameBut t [x] ∧ s.SameBut t [.v]

/-- OR, AND and XOR work bit by bit on V[x] and leave VF unless it is V[x] (R205, R206, R207; D10). -/
def Obligations.LogicIsBitwise : Prop :=
  ∀ (s : State) (x y : Reg),
    (∃ t, exec (.or x y) s = .next t ∧ (∀ k, (t.reg x).getLsbD k = ((s.reg x).getLsbD k || (s.reg y).getLsbD k)) ∧
      s.RegsSameBut t [x] ∧ s.SameBut t [.v]) ∧
    (∃ t, exec (.and x y) s = .next t ∧ (∀ k, (t.reg x).getLsbD k = ((s.reg x).getLsbD k && (s.reg y).getLsbD k)) ∧
      s.RegsSameBut t [x] ∧ s.SameBut t [.v]) ∧
    (∃ t, exec (.xor x y) s = .next t ∧ (∀ k, (t.reg x).getLsbD k = ((s.reg x).getLsbD k != (s.reg y).getLsbD k)) ∧
      s.RegsSameBut t [x] ∧ s.SameBut t [.v])

/-- ADD Vx, Vy: VF is 1 iff the sum exceeds 255, V[x] is the sum mod 256, and with x = 15 the result stays (R208). -/
def Obligations.AddSetsCarryThenResult : Prop :=
  ∀ (s : State) (x y : Reg),
    (∀ w, fieldF w = 0x8#4 → fieldN w = 0x4#4 → fieldX w = x → fieldY w = y → decode w = .instr (.addReg x y)) ∧
    ∃ t, exec (.addReg x y) s = .next t ∧ (t.reg x).toNat = ((s.reg x).toNat + (s.reg y).toNat) % 256 ∧
      (x ≠ VF → t.reg VF = if (s.reg x).toNat + (s.reg y).toNat > 255 then 1#8 else 0#8) ∧
      s.RegsSameBut t [x, VF] ∧ s.SameBut t [.v]

/-- SUB and SUBN: VF is 1 iff there is no borrow, V[x] is the difference mod 256, and with x = 15 the result stays (R209, R211; the
write order is D9). -/
def Obligations.SubtractSetsNoBorrowThenResult : Prop :=
  ∀ (s : State) (x y : Reg),
    (∃ t, exec (.sub x y) s = .next t ∧ ((t.reg x).toNat : Int) = ((s.reg x).toNat - (s.reg y).toNat : Int) % 256 ∧
      (x ≠ VF → t.reg VF = if (s.reg x).toNat ≥ (s.reg y).toNat then 1#8 else 0#8) ∧ s.RegsSameBut t [x, VF] ∧
      s.SameBut t [.v]) ∧
    (∃ t, exec (.subn x y) s = .next t ∧ ((t.reg x).toNat : Int) = ((s.reg y).toNat - (s.reg x).toNat : Int) % 256 ∧
      (x ≠ VF → t.reg VF = if (s.reg y).toNat ≥ (s.reg x).toNat then 1#8 else 0#8) ∧ s.RegsSameBut t [x, VF] ∧
      s.SameBut t [.v])

/-- SHR and SHL shift V[x] by one and put the bit moved out into VF, with x = 15 the result staying; V[y] is not read (R210, R212;
D8, D9). -/
def Obligations.ShiftsMoveOneBitIntoTheFlag : Prop :=
  ∀ (s : State) (x y : Reg),
    (∃ t, exec (.shr x y) s = .next t ∧ (t.reg x).toNat = (s.reg x).toNat / 2 ∧
      (x ≠ VF → (t.reg VF).toNat = (s.reg x).toNat % 2) ∧ s.RegsSameBut t [x, VF] ∧ s.SameBut t [.v]) ∧
    (∃ t, exec (.shl x y) s = .next t ∧ (t.reg x).toNat = (s.reg x).toNat * 2 % 256 ∧
      (x ≠ VF → (t.reg VF).toNat = (s.reg x).toNat / 128) ∧ s.RegsSameBut t [x, VF] ∧ s.SameBut t [.v])

/-- RND: V[x] is the draw masked with kk, the draw being the host's next byte, or, with none waiting, the free value, whatever it is;
the draw is consumed (R240, R241; D27, log 3). -/
def Obligations.RndMasksOneDraw : Prop :=
  ∀ (s : State) (x : Reg) (kk : Byte),
    (∀ b rest, s.draws = b :: rest → ∃ t, exec (.rnd x kk) s = .next t ∧ t.reg x = b &&& kk ∧ t.draws = rest ∧
      s.RegsSameBut t [x] ∧ s.SameBut t [.v, .draws]) ∧
    (s.draws = [] → ∃ t, exec (.rnd x kk) s = .next t ∧ t.reg x = Config.freeDraw s.freeDraws &&& kk ∧
      (∀ k, kk.getLsbD k = false → (t.reg x).getLsbD k = false) ∧ t.freeDraws = s.freeDraws + 1 ∧ s.RegsSameBut t [x] ∧
      s.SameBut t [.v, .freeDraws])

/-! ### Display (44_display.md) -/

/-- CLS blanks every pixel and sets REDRAW always (R250; D15). -/
def Obligations.ClsBlanksTheScreen : Prop :=
  ∀ s : State, ∃ t, exec .cls s = .next t ∧ (∀ x y, pixelAt t.fb x y = 0) ∧ t.redraw = true ∧ s.SameBut t [.fb, .redraw]

/-- DRW in bounds: exactly the pixels of the frame under a set sprite bit flip, VF is 1 iff one of them was 1, REDRAW is true after
iff it was before or there is one; the coordinates are V[x], V[y] before VF is written, and nothing wraps (R251 to R255; D12, D13,
D14, D46). -/
def Obligations.DrawFlipsExactlyTheSpritePixels : Prop :=
  ∀ (s : State) (x y : Reg) (n : Nibble), s.i.toNat + n.toNat ≤ 4096 →
    let px := (s.reg x).toNat
    let py := (s.reg y).toNat
    ∃ t, exec (.drw x y n) s = .next t ∧
      (∀ X Y, X < 64 → Y < 32 →
        (s.SpriteSets px py n.toNat X Y → pixelAt t.fb X Y = pixelAt s.fb X Y ^^^ 1) ∧
        (¬s.SpriteSets px py n.toNat X Y → pixelAt t.fb X Y = pixelAt s.fb X Y)) ∧
      (t.reg VF = 0 ∨ t.reg VF = 1) ∧
      (t.reg VF = 1 ↔ ∃ X Y, X < 64 ∧ Y < 32 ∧ s.SpriteSets px py n.toNat X Y ∧ pixelAt s.fb X Y = 1) ∧
      (t.redraw = true ↔ s.redraw = true ∨ ∃ X Y, X < 64 ∧ Y < 32 ∧ s.SpriteSets px py n.toNat X Y) ∧
      s.RegsSameBut t [VF] ∧ s.SameBut t [.v, .fb, .redraw]

/-- Drawing the same sprite twice at the same place, the registers as before the first draw, restores the framebuffer; the second
draw's VF is 1 iff the first draw turned a pixel on (R252, R254; log 13 on R254's sentence about the second VF). -/
def Obligations.DrawingTwiceRestoresTheFrame : Prop :=
  ∀ (s t u : State) (x y : Reg) (n : Nibble), s.i.toNat + n.toNat ≤ 4096 → exec (.drw x y n) s = .next t →
    exec (.drw x y n) { t with v := s.v } = .next u →
    (∀ X Y, pixelAt u.fb X Y = pixelAt s.fb X Y) ∧
    (u.reg VF = 1 ↔ ∃ X Y, X < 64 ∧ Y < 32 ∧ s.SpriteSets (s.reg x).toNat (s.reg y).toNat n.toNat X Y ∧ pixelAt s.fb X Y = 0)

/-! ### Keys (45_keys.md) -/

/-- SKP and SKNP: skip when the key of V[x] is down, or up; an index of 16 or more names no key and reads as up (R280, R281, R282;
D16, D28). -/
def Obligations.KeySkips : Prop :=
  ∀ (s : State) (x : Reg) (down : Bool),
    (if h : (s.reg x).toNat < 16 then down = s.keys[(s.reg x).toNat] else down = false) →
    (∃ t, exec (.skp x) s = .next t ∧ t.pc = (if down then s.pc + 2 else s.pc) ∧ s.SameBut t [.pc]) ∧
    (∃ t, exec (.sknp x) s = .next t ∧ t.pc = (if down then s.pc else s.pc + 2) ∧ s.SameBut t [.pc])

/-- LD Vx, K: the lowest key down goes into V[x]; with none down PC goes back by two, so that the cycle leaves PC at this instruction
while the timers still run, and KEY_WAIT is reported, an event code of the spec's own (R283, R347, R348; D30). -/
def Obligations.KeyWaitTakesTheLowestKeyOrRewinds : Prop :=
  ∀ (s : State) (x : Reg),
    (∀ w, fieldF w = 0xF#4 → fieldKK w = 0x0A#8 → fieldX w = x → decode w = .instr (.ldVxK x)) ∧
    (∀ k : Fin 16, s.keys[k] = true → (∀ j : Fin 16, j < k → s.keys[j] = false) →
      ∃ t, exec (.ldVxK x) s = .next t ∧ (t.reg x).toNat = k.val ∧ s.RegsSameBut t [x] ∧ s.SameBut t [.v]) ∧
    ((∀ j : Fin 16, s.keys[j] = false) →
      (∃ t, exec (.ldVxK x) s = .next t ∧ t.pc = s.pc - 2 ∧ t.event = .keyWait ∧ s.SameBut t [.pc, .event]) ∧
      (s.Dispatches (.ldVxK x) → ∃ t, step s = .next t ∧ t.pc.toNat = s.fetchAddr ∧ t.dt.toNat = s.dt.toNat - 1 ∧
        t.st.toNat = s.st.toNat - 1))

/-! ### Index, memory and timers (46_memory_timer.md) -/

/-- LD I, nnn loads the address unclamped; ADD I, Vx clamps the exact sum into [0x050, 0xFFF], with no flag (R300, R304; D17, D22). -/
def Obligations.IndexLoadAndSaturatingAdd : Prop :=
  ∀ (s : State) (nnn : Addr) (x : Reg),
    (∃ t, exec (.ldI nnn) s = .next t ∧ t.i.toNat = nnn.toNat ∧ s.SameBut t [.i]) ∧
    (∃ t, exec (.addIVx x) s = .next t ∧
      t.i.toNat = (let sum := s.i.toNat + (s.reg x).toNat; if sum < 0x050 then 0x050 else if 0xFFF < sum then 0xFFF else sum) ∧
      s.SameBut t [.i])

/-- LD F, Vx points I at the glyph of V[x]'s low nibble (R305). -/
def Obligations.GlyphAddress : Prop :=
  ∀ (s : State) (x : Reg),
    (∀ w, fieldF w = 0xF#4 → fieldKK w = 0x29#8 → fieldX w = x → decode w = .instr (.ldFVx x)) ∧
    ∃ t, exec (.ldFVx x) s = .next t ∧ t.i.toNat = 0x050 + 5 * ((s.reg x).toNat % 16) ∧ s.SameBut t [.i]

/-- The timer instructions: LD Vx, DT reads DT, LD DT, Vx and LD ST, Vx write theirs, each alone (R301, R302, R303). -/
def Obligations.TimerTransfers : Prop :=
  ∀ (s : State) (x : Reg),
    (∃ t, exec (.ldVxDt x) s = .next t ∧ t.reg x = s.dt ∧ s.RegsSameBut t [x] ∧ s.SameBut t [.v]) ∧
    (∃ t, exec (.ldDtVx x) s = .next t ∧ t.dt = s.reg x ∧ s.SameBut t [.dt]) ∧
    (∃ t, exec (.ldStVx x) s = .next t ∧ t.st = s.reg x ∧ s.SameBut t [.st])

/-- The cycle's decrement follows the instruction: a cycle that reads DT reads it before, and one that writes a timer leaves the value
written less one, floored at zero (R150, R301, R302, R303, R391). -/
def Obligations.WrittenTimerLosesOneInItsCycle : Prop :=
  ∀ (s : State) (x : Reg),
    (s.Dispatches (.ldVxDt x) → ∃ t, step s = .next t ∧ t.reg x = s.dt ∧ t.dt.toNat = s.dt.toNat - 1) ∧
    (s.Dispatches (.ldDtVx x) → ∃ t, step s = .next t ∧ t.dt.toNat = (s.reg x).toNat - 1) ∧
    (s.Dispatches (.ldStVx x) → ∃ t, step s = .next t ∧ t.st.toNat = (s.reg x).toNat - 1)

/-- LD B in bounds stores the three decimal digits at I and nothing else (R306; D19). -/
def Obligations.BcdStoresThreeDigits : Prop :=
  ∀ (s : State) (x : Reg), s.i.toNat + 3 ≤ 4096 →
    let a := s.i.toNat
    let k := (s.reg x).toNat
    ∃ t, exec (.ldBVx x) s = .next t ∧ (t.readByte a).toNat = k / 100 ∧ (t.readByte (a + 1)).toNat = k / 10 % 10 ∧
      (t.readByte (a + 2)).toNat = k % 10 ∧ s.BytesSameOutside t a 3 ∧ s.SameBut t [.mem]

/-- LD [I], Vx in bounds stores V[0..x] at I and leaves I and all other memory (R307; D18). -/
def Obligations.BlockStore : Prop :=
  ∀ (s : State) (x : Reg), s.i.toNat + x.toNat + 1 ≤ 4096 →
    ∃ t, exec (.ldMemVx x) s = .next t ∧ (∀ r : Reg, r.toNat ≤ x.toNat → t.readByte (s.i.toNat + r.toNat) = s.reg r) ∧
      s.BytesSameOutside t s.i.toNat (x.toNat + 1) ∧ s.SameBut t [.mem]

/-- LD Vx, [I] in bounds loads V[0..x] from I and leaves I and the registers above x (R308; D18). -/
def Obligations.BlockLoad : Prop :=
  ∀ (s : State) (x : Reg), s.i.toNat + x.toNat + 1 ≤ 4096 →
    ∃ t, exec (.ldVxMem x) s = .next t ∧ (∀ r : Reg, r.toNat ≤ x.toNat → t.reg r = s.readByte (s.i.toNat + r.toNat)) ∧
      (∀ r : Reg, x.toNat < r.toNat → t.reg r = s.reg r) ∧ s.SameBut t [.v]

/-- Registers stored by LD [I], Vx come back by LD Vx, [I], whatever the registers held in between (R307, R308; D18). -/
def Obligations.BlockStoreThenLoadRestores : Prop :=
  ∀ (s : State) (x : Reg) (v : Vector Byte 16), s.i.toNat + x.toNat + 1 ≤ 4096 →
    ∃ t u, exec (.ldMemVx x) s = .next t ∧ exec (.ldVxMem x) { t with v := v } = .next u ∧
      ∀ r : Reg, r.toNat ≤ x.toNat → u.reg r = s.reg r

/-- A memory instruction whose bytes would pass 0xFFF reports its cause and changes nothing else (R76, R346; D12, D18, D19, D35, the
event codes D30). -/
def Obligations.BoundsFailureChangesNothing : Prop :=
  ∀ (s : State) (x y : Reg) (n : Nibble),
    (4096 < s.i.toNat + n.toNat →
      ∃ t, exec (.drw x y n) s = .next t ∧ t.event = .drawOob ∧ s.SameBut t [.event]) ∧
    (4096 < s.i.toNat + 3 → ∃ t, exec (.ldBVx x) s = .next t ∧ t.event = .bcdOob ∧ s.SameBut t [.event]) ∧
    (4096 < s.i.toNat + x.toNat + 1 →
      (∃ t, exec (.ldMemVx x) s = .next t ∧ t.event = .blockOob ∧ s.SameBut t [.event]) ∧
      (∃ t, exec (.ldVxMem x) s = .next t ∧ t.event = .blockOob ∧ s.SameBut t [.event]))
end

