-- ==== Sys2Proof/Laws/Decode.lean ====
section
/-! SUPPORT. The fields of a word as numbers, the fields of a word put together from its parts, and the masks of R105 in terms of the
fields. -/

namespace Sys2Proof

/-! ### A word's fields as numbers (R10) -/

theorem fieldF_toNat (w : Word) : (fieldF w).toNat = w.toNat / 4096 := by
  have := w.isLt
  rw [fieldF, BitVec.extractLsb'_toNat, Nat.shiftRight_eq_div_pow]; omega

theorem fieldX_toNat (w : Word) : (fieldX w).toNat = w.toNat / 256 % 16 := by
  rw [fieldX, BitVec.extractLsb'_toNat, Nat.shiftRight_eq_div_pow]

theorem fieldY_toNat (w : Word) : (fieldY w).toNat = w.toNat / 16 % 16 := by
  rw [fieldY, BitVec.extractLsb'_toNat, Nat.shiftRight_eq_div_pow]

theorem fieldN_toNat (w : Word) : (fieldN w).toNat = w.toNat % 16 := by
  rw [fieldN, BitVec.extractLsb'_toNat, Nat.shiftRight_eq_div_pow]; omega

theorem fieldKK_toNat (w : Word) : (fieldKK w).toNat = w.toNat % 256 := by
  rw [fieldKK, BitVec.extractLsb'_toNat, Nat.shiftRight_eq_div_pow]; omega

theorem fieldNNN_toNat (w : Word) : (fieldNNN w).toNat = w.toNat % 4096 := by
  rw [fieldNNN, BitVec.extractLsb'_toNat, Nat.shiftRight_eq_div_pow]; omega

/-! ### Words put together from their fields (R101) -/

theorem toNat_append_mul {m n : Nat} (x : BitVec m) (y : BitVec n) : (x ++ y).toNat = x.toNat * 2 ^ n + y.toNat := by
  rw [BitVec.toNat_append, ← Nat.shiftLeft_add_eq_or_of_lt y.isLt, Nat.shiftLeft_eq]

theorem toNat_nnn (f : BitVec 4) (a : Addr) : (f ++ a : Word).toNat = f.toNat * 4096 + a.toNat :=
  toNat_append_mul f a

theorem toNat_xkk (f : BitVec 4) (x : Reg) (kk : Byte) :
    (f ++ x ++ kk : Word).toNat = f.toNat * 4096 + x.toNat * 256 + kk.toNat := by
  refine (toNat_append_mul (f ++ x) kk).trans ?_
  rw [toNat_append_mul f x]; omega

theorem toNat_xyn (f : BitVec 4) (x y : Reg) (n : Nibble) :
    (f ++ x ++ y ++ n : Word).toNat = f.toNat * 4096 + x.toNat * 256 + y.toNat * 16 + n.toNat := by
  refine (toNat_append_mul (f ++ x ++ y) n).trans ?_
  rw [toNat_append_mul (f ++ x) y, toNat_append_mul f x]; omega

section

variable (f : BitVec 4) (x y : Reg) (n : Nibble) (kk : Byte) (nnn : Addr)

theorem fieldF_nnn : fieldF (f ++ nnn) = f := by
  have := f.isLt; have := nnn.isLt
  exact BitVec.eq_of_toNat_eq (by rw [fieldF_toNat, toNat_nnn]; omega)

theorem fieldNNN_nnn : fieldNNN (f ++ nnn) = nnn := by
  have := nnn.isLt
  exact BitVec.eq_of_toNat_eq (by rw [fieldNNN_toNat, toNat_nnn]; omega)

theorem fieldF_xkk : fieldF (f ++ x ++ kk) = f := by
  have := x.isLt; have := kk.isLt
  exact BitVec.eq_of_toNat_eq (by rw [fieldF_toNat, toNat_xkk]; omega)

theorem fieldX_xkk : fieldX (f ++ x ++ kk) = x := by
  have := x.isLt; have := kk.isLt
  exact BitVec.eq_of_toNat_eq (by rw [fieldX_toNat, toNat_xkk]; omega)

theorem fieldKK_xkk : fieldKK (f ++ x ++ kk) = kk := by
  have := kk.isLt
  exact BitVec.eq_of_toNat_eq (by rw [fieldKK_toNat, toNat_xkk]; omega)

theorem fieldN_xkk : fieldN (f ++ x ++ kk) = kk.extractLsb' 0 4 := by
  refine BitVec.eq_of_toNat_eq ?_
  rw [fieldN_toNat, toNat_xkk, BitVec.extractLsb'_toNat, Nat.shiftRight_eq_div_pow]; omega

theorem fieldF_xyn : fieldF (f ++ x ++ y ++ n) = f := by
  have := x.isLt; have := y.isLt; have := n.isLt
  exact BitVec.eq_of_toNat_eq (by rw [fieldF_toNat, toNat_xyn]; omega)

theorem fieldX_xyn : fieldX (f ++ x ++ y ++ n) = x := by
  have := x.isLt; have := y.isLt; have := n.isLt
  exact BitVec.eq_of_toNat_eq (by rw [fieldX_toNat, toNat_xyn]; omega)

theorem fieldY_xyn : fieldY (f ++ x ++ y ++ n) = y := by
  have := y.isLt; have := n.isLt
  exact BitVec.eq_of_toNat_eq (by rw [fieldY_toNat, toNat_xyn]; omega)

theorem fieldN_xyn : fieldN (f ++ x ++ y ++ n) = n := by
  have := n.isLt
  exact BitVec.eq_of_toNat_eq (by rw [fieldN_toNat, toNat_xyn]; omega)

end

/-! ### The masks of R105 -/

theorem and_mask_f (w : Word) : w &&& 0xF000#16 = fieldF w ++ 0#12 := by
  ext i hi
  have h : (fieldF w ++ 0#12 : Word)[i] = if i < 12 then false else w.getLsbD i := by
    refine (BitVec.getElem_append (x := fieldF w) (y := 0#12) hi).trans ?_
    split
    · simp
    · simp [fieldF]; congr 1; omega
  rw [BitVec.getElem_and, h]
  interval_cases i <;> simp

theorem and_mask_fn (w : Word) : w &&& 0xF00F#16 = fieldF w ++ 0#8 ++ fieldN w := by
  ext i hi
  have h : (fieldF w ++ 0#8 ++ fieldN w : Word)[i] = if i < 4 ∨ 12 ≤ i then w.getLsbD i else false := by
    refine (BitVec.getElem_append (x := fieldF w ++ 0#8) (y := fieldN w) hi).trans ?_
    split
    · next h => simp [fieldN, h]
    · next h =>
      rw [BitVec.getElem_append (x := fieldF w) (y := 0#8)]
      split
      · have : ¬(i < 4 ∨ 12 ≤ i) := by omega
        simp [this]
      · have : 12 ≤ i := by omega
        simp [fieldF, this]; congr 1; omega
  rw [BitVec.getElem_and, h]
  interval_cases i <;> simp

theorem and_mask_fkk (w : Word) : w &&& 0xF0FF#16 = fieldF w ++ 0#4 ++ fieldKK w := by
  ext i hi
  have h : (fieldF w ++ 0#4 ++ fieldKK w : Word)[i] = if i < 8 ∨ 12 ≤ i then w.getLsbD i else false := by
    refine (BitVec.getElem_append (x := fieldF w ++ 0#4) (y := fieldKK w) hi).trans ?_
    split
    · next h => simp [fieldKK, h]
    · next h =>
      rw [BitVec.getElem_append (x := fieldF w) (y := 0#4)]
      split
      · have : ¬(i < 8 ∨ 12 ≤ i) := by omega
        simp [this]
      · have : 12 ≤ i := by omega
        simp [fieldF, this]; congr 1; omega
  rw [BitVec.getElem_and, h]
  interval_cases i <;> simp

/-! ### Well-formedness holds of every instruction: the operand types carry the checks (R102) -/

theorem regOperand_toNat (x : Reg) : regOperand x.toNat = some x := by
  have := x.isLt
  simp [regOperand, this]

theorem byteOperand_toNat (b : Byte) : byteOperand b.toNat = some b := by
  have := b.isLt
  simp [byteOperand, this]

theorem addrOperand_toNat (a : Addr) : addrOperand a.toNat = some a := by
  have := a.isLt
  simp [addrOperand, this]

theorem nibbleOperand_toNat (n : Nibble) : nibbleOperand n.toNat = some n := by
  have := n.isLt
  simp [nibbleOperand, this]

end Sys2Proof
end

