-- ==== Sys2Proof/Laws/Exec.lean ====
section
/-! SUPPORT. Each instruction's arm: `exec` is its meaning. -/

namespace Sys2Proof.Machine

variable (s : State)

theorem exec_cls : exec (.cls) s = execCls s := rfl
theorem exec_ret : exec (.ret) s = execRet s := rfl
theorem exec_jp (nnn : Addr) : exec (.jp nnn) s = execJp nnn s := rfl
theorem exec_call (nnn : Addr) : exec (.call nnn) s = execCall nnn s := rfl
theorem exec_seImm (x : Reg) (kk : Byte) : exec (.seImm x kk) s = execSeImm x kk s := rfl
theorem exec_sneImm (x : Reg) (kk : Byte) : exec (.sneImm x kk) s = execSneImm x kk s := rfl
theorem exec_seReg (x y : Reg) : exec (.seReg x y) s = execSeReg x y s := rfl
theorem exec_ldImm (x : Reg) (kk : Byte) : exec (.ldImm x kk) s = execLdImm x kk s := rfl
theorem exec_addImm (x : Reg) (kk : Byte) : exec (.addImm x kk) s = execAddImm x kk s := rfl
theorem exec_ldReg (x y : Reg) : exec (.ldReg x y) s = execLdReg x y s := rfl
theorem exec_or (x y : Reg) : exec (.or x y) s = execOr x y s := rfl
theorem exec_and (x y : Reg) : exec (.and x y) s = execAnd x y s := rfl
theorem exec_xor (x y : Reg) : exec (.xor x y) s = execXor x y s := rfl
theorem exec_addReg (x y : Reg) : exec (.addReg x y) s = execAddReg x y s := rfl
theorem exec_sub (x y : Reg) : exec (.sub x y) s = execSub x y s := rfl
theorem exec_shr (x y : Reg) : exec (.shr x y) s = execShr x y s := rfl
theorem exec_subn (x y : Reg) : exec (.subn x y) s = execSubn x y s := rfl
theorem exec_shl (x y : Reg) : exec (.shl x y) s = execShl x y s := rfl
theorem exec_sneReg (x y : Reg) : exec (.sneReg x y) s = execSneReg x y s := rfl
theorem exec_ldI (nnn : Addr) : exec (.ldI nnn) s = execLdI nnn s := rfl
theorem exec_jpV0 (nnn : Addr) : exec (.jpV0 nnn) s = execJpV0 nnn s := rfl
theorem exec_rnd (x : Reg) (kk : Byte) : exec (.rnd x kk) s = execRnd x kk s := rfl
theorem exec_drw (x y : Reg) (n : Nibble) : exec (.drw x y n) s = execDrw x y n s := rfl
theorem exec_skp (x : Reg) : exec (.skp x) s = execSkp x s := rfl
theorem exec_sknp (x : Reg) : exec (.sknp x) s = execSknp x s := rfl
theorem exec_ldVxDt (x : Reg) : exec (.ldVxDt x) s = execLdVxDt x s := rfl
theorem exec_ldVxK (x : Reg) : exec (.ldVxK x) s = execLdVxK x s := rfl
theorem exec_ldDtVx (x : Reg) : exec (.ldDtVx x) s = execLdDtVx x s := rfl
theorem exec_ldStVx (x : Reg) : exec (.ldStVx x) s = execLdStVx x s := rfl
theorem exec_addIVx (x : Reg) : exec (.addIVx x) s = execAddIVx x s := rfl
theorem exec_ldFVx (x : Reg) : exec (.ldFVx x) s = execLdFVx x s := rfl
theorem exec_ldBVx (x : Reg) : exec (.ldBVx x) s = execLdBVx x s := rfl
theorem exec_ldMemVx (x : Reg) : exec (.ldMemVx x) s = execLdMemVx x s := rfl
theorem exec_ldVxMem (x : Reg) : exec (.ldVxMem x) s = execLdVxMem x s := rfl

end Sys2Proof.Machine
end

