-- ==== Sys2Proof/Laws/State.lean ====
section
/-! SUPPORT. What every update of the state leaves in every field: one lemma per field per update. -/

namespace Sys2Proof.Machine

variable (s : State)

/-! ### `setReg` -/

@[simp] theorem State.setReg_v (x : Reg) (b : Byte) : (s.setReg x b).v = s.v.set x.toNat b x.isLt := rfl
@[simp] theorem State.setReg_pc (x : Reg) (b : Byte) : (s.setReg x b).pc = s.pc := rfl
@[simp] theorem State.setReg_i (x : Reg) (b : Byte) : (s.setReg x b).i = s.i := rfl
@[simp] theorem State.setReg_sp (x : Reg) (b : Byte) : (s.setReg x b).sp = s.sp := rfl
@[simp] theorem State.setReg_stack (x : Reg) (b : Byte) : (s.setReg x b).stack = s.stack := rfl
@[simp] theorem State.setReg_dt (x : Reg) (b : Byte) : (s.setReg x b).dt = s.dt := rfl
@[simp] theorem State.setReg_st (x : Reg) (b : Byte) : (s.setReg x b).st = s.st := rfl
@[simp] theorem State.setReg_opc (x : Reg) (b : Byte) : (s.setReg x b).opc = s.opc := rfl
@[simp] theorem State.setReg_invalidCount (x : Reg) (b : Byte) : (s.setReg x b).invalidCount = s.invalidCount := rfl
@[simp] theorem State.setReg_redraw (x : Reg) (b : Byte) : (s.setReg x b).redraw = s.redraw := rfl
@[simp] theorem State.setReg_fb (x : Reg) (b : Byte) : (s.setReg x b).fb = s.fb := rfl
@[simp] theorem State.setReg_keys (x : Reg) (b : Byte) : (s.setReg x b).keys = s.keys := rfl
@[simp] theorem State.setReg_mem (x : Reg) (b : Byte) : (s.setReg x b).mem = s.mem := rfl
@[simp] theorem State.setReg_event (x : Reg) (b : Byte) : (s.setReg x b).event = s.event := rfl
@[simp] theorem State.setReg_draws (x : Reg) (b : Byte) : (s.setReg x b).draws = s.draws := rfl
@[simp] theorem State.setReg_freeDraws (x : Reg) (b : Byte) : (s.setReg x b).freeDraws = s.freeDraws := rfl
@[simp] theorem State.setReg_params (x : Reg) (b : Byte) : (s.setReg x b).params = s.params := rfl

/-! ### `setPc` -/

@[simp] theorem State.setPc_v (a : Nat) : (s.setPc a).v = s.v := rfl
@[simp] theorem State.setPc_pc (a : Nat) : (s.setPc a).pc = BitVec.ofNat 16 a := rfl
@[simp] theorem State.setPc_i (a : Nat) : (s.setPc a).i = s.i := rfl
@[simp] theorem State.setPc_sp (a : Nat) : (s.setPc a).sp = s.sp := rfl
@[simp] theorem State.setPc_stack (a : Nat) : (s.setPc a).stack = s.stack := rfl
@[simp] theorem State.setPc_dt (a : Nat) : (s.setPc a).dt = s.dt := rfl
@[simp] theorem State.setPc_st (a : Nat) : (s.setPc a).st = s.st := rfl
@[simp] theorem State.setPc_opc (a : Nat) : (s.setPc a).opc = s.opc := rfl
@[simp] theorem State.setPc_invalidCount (a : Nat) : (s.setPc a).invalidCount = s.invalidCount := rfl
@[simp] theorem State.setPc_redraw (a : Nat) : (s.setPc a).redraw = s.redraw := rfl
@[simp] theorem State.setPc_fb (a : Nat) : (s.setPc a).fb = s.fb := rfl
@[simp] theorem State.setPc_keys (a : Nat) : (s.setPc a).keys = s.keys := rfl
@[simp] theorem State.setPc_mem (a : Nat) : (s.setPc a).mem = s.mem := rfl
@[simp] theorem State.setPc_event (a : Nat) : (s.setPc a).event = s.event := rfl
@[simp] theorem State.setPc_draws (a : Nat) : (s.setPc a).draws = s.draws := rfl
@[simp] theorem State.setPc_freeDraws (a : Nat) : (s.setPc a).freeDraws = s.freeDraws := rfl
@[simp] theorem State.setPc_params (a : Nat) : (s.setPc a).params = s.params := rfl

/-! ### `skip` -/

@[simp] theorem State.skip_v : (s.skip).v = s.v := rfl
@[simp] theorem State.skip_pc : (s.skip).pc = s.pc + 2 := rfl
@[simp] theorem State.skip_i : (s.skip).i = s.i := rfl
@[simp] theorem State.skip_sp : (s.skip).sp = s.sp := rfl
@[simp] theorem State.skip_stack : (s.skip).stack = s.stack := rfl
@[simp] theorem State.skip_dt : (s.skip).dt = s.dt := rfl
@[simp] theorem State.skip_st : (s.skip).st = s.st := rfl
@[simp] theorem State.skip_opc : (s.skip).opc = s.opc := rfl
@[simp] theorem State.skip_invalidCount : (s.skip).invalidCount = s.invalidCount := rfl
@[simp] theorem State.skip_redraw : (s.skip).redraw = s.redraw := rfl
@[simp] theorem State.skip_fb : (s.skip).fb = s.fb := rfl
@[simp] theorem State.skip_keys : (s.skip).keys = s.keys := rfl
@[simp] theorem State.skip_mem : (s.skip).mem = s.mem := rfl
@[simp] theorem State.skip_event : (s.skip).event = s.event := rfl
@[simp] theorem State.skip_draws : (s.skip).draws = s.draws := rfl
@[simp] theorem State.skip_freeDraws : (s.skip).freeDraws = s.freeDraws := rfl
@[simp] theorem State.skip_params : (s.skip).params = s.params := rfl

/-! ### `rewind` -/

@[simp] theorem State.rewind_v : (s.rewind).v = s.v := rfl
@[simp] theorem State.rewind_pc : (s.rewind).pc = s.pc - 2 := rfl
@[simp] theorem State.rewind_i : (s.rewind).i = s.i := rfl
@[simp] theorem State.rewind_sp : (s.rewind).sp = s.sp := rfl
@[simp] theorem State.rewind_stack : (s.rewind).stack = s.stack := rfl
@[simp] theorem State.rewind_dt : (s.rewind).dt = s.dt := rfl
@[simp] theorem State.rewind_st : (s.rewind).st = s.st := rfl
@[simp] theorem State.rewind_opc : (s.rewind).opc = s.opc := rfl
@[simp] theorem State.rewind_invalidCount : (s.rewind).invalidCount = s.invalidCount := rfl
@[simp] theorem State.rewind_redraw : (s.rewind).redraw = s.redraw := rfl
@[simp] theorem State.rewind_fb : (s.rewind).fb = s.fb := rfl
@[simp] theorem State.rewind_keys : (s.rewind).keys = s.keys := rfl
@[simp] theorem State.rewind_mem : (s.rewind).mem = s.mem := rfl
@[simp] theorem State.rewind_event : (s.rewind).event = s.event := rfl
@[simp] theorem State.rewind_draws : (s.rewind).draws = s.draws := rfl
@[simp] theorem State.rewind_freeDraws : (s.rewind).freeDraws = s.freeDraws := rfl
@[simp] theorem State.rewind_params : (s.rewind).params = s.params := rfl

/-! ### `advance` -/

@[simp] theorem State.advance_v : (s.advance).v = s.v := rfl
@[simp] theorem State.advance_pc : (s.advance).pc = s.pc + 2 := rfl
@[simp] theorem State.advance_i : (s.advance).i = s.i := rfl
@[simp] theorem State.advance_sp : (s.advance).sp = s.sp := rfl
@[simp] theorem State.advance_stack : (s.advance).stack = s.stack := rfl
@[simp] theorem State.advance_dt : (s.advance).dt = s.dt := rfl
@[simp] theorem State.advance_st : (s.advance).st = s.st := rfl
@[simp] theorem State.advance_opc : (s.advance).opc = s.opc := rfl
@[simp] theorem State.advance_invalidCount : (s.advance).invalidCount = s.invalidCount := rfl
@[simp] theorem State.advance_redraw : (s.advance).redraw = s.redraw := rfl
@[simp] theorem State.advance_fb : (s.advance).fb = s.fb := rfl
@[simp] theorem State.advance_keys : (s.advance).keys = s.keys := rfl
@[simp] theorem State.advance_mem : (s.advance).mem = s.mem := rfl
@[simp] theorem State.advance_event : (s.advance).event = s.event := rfl
@[simp] theorem State.advance_draws : (s.advance).draws = s.draws := rfl
@[simp] theorem State.advance_freeDraws : (s.advance).freeDraws = s.freeDraws := rfl
@[simp] theorem State.advance_params : (s.advance).params = s.params := rfl

/-! ### `setI` -/

@[simp] theorem State.setI_v (a : Nat) : (s.setI a).v = s.v := rfl
@[simp] theorem State.setI_pc (a : Nat) : (s.setI a).pc = s.pc := rfl
@[simp] theorem State.setI_i (a : Nat) : (s.setI a).i = BitVec.ofNat 16 a := rfl
@[simp] theorem State.setI_sp (a : Nat) : (s.setI a).sp = s.sp := rfl
@[simp] theorem State.setI_stack (a : Nat) : (s.setI a).stack = s.stack := rfl
@[simp] theorem State.setI_dt (a : Nat) : (s.setI a).dt = s.dt := rfl
@[simp] theorem State.setI_st (a : Nat) : (s.setI a).st = s.st := rfl
@[simp] theorem State.setI_opc (a : Nat) : (s.setI a).opc = s.opc := rfl
@[simp] theorem State.setI_invalidCount (a : Nat) : (s.setI a).invalidCount = s.invalidCount := rfl
@[simp] theorem State.setI_redraw (a : Nat) : (s.setI a).redraw = s.redraw := rfl
@[simp] theorem State.setI_fb (a : Nat) : (s.setI a).fb = s.fb := rfl
@[simp] theorem State.setI_keys (a : Nat) : (s.setI a).keys = s.keys := rfl
@[simp] theorem State.setI_mem (a : Nat) : (s.setI a).mem = s.mem := rfl
@[simp] theorem State.setI_event (a : Nat) : (s.setI a).event = s.event := rfl
@[simp] theorem State.setI_draws (a : Nat) : (s.setI a).draws = s.draws := rfl
@[simp] theorem State.setI_freeDraws (a : Nat) : (s.setI a).freeDraws = s.freeDraws := rfl
@[simp] theorem State.setI_params (a : Nat) : (s.setI a).params = s.params := rfl

/-! ### `setDt` -/

@[simp] theorem State.setDt_v (b : Byte) : (s.setDt b).v = s.v := rfl
@[simp] theorem State.setDt_pc (b : Byte) : (s.setDt b).pc = s.pc := rfl
@[simp] theorem State.setDt_i (b : Byte) : (s.setDt b).i = s.i := rfl
@[simp] theorem State.setDt_sp (b : Byte) : (s.setDt b).sp = s.sp := rfl
@[simp] theorem State.setDt_stack (b : Byte) : (s.setDt b).stack = s.stack := rfl
@[simp] theorem State.setDt_dt (b : Byte) : (s.setDt b).dt = b := rfl
@[simp] theorem State.setDt_st (b : Byte) : (s.setDt b).st = s.st := rfl
@[simp] theorem State.setDt_opc (b : Byte) : (s.setDt b).opc = s.opc := rfl
@[simp] theorem State.setDt_invalidCount (b : Byte) : (s.setDt b).invalidCount = s.invalidCount := rfl
@[simp] theorem State.setDt_redraw (b : Byte) : (s.setDt b).redraw = s.redraw := rfl
@[simp] theorem State.setDt_fb (b : Byte) : (s.setDt b).fb = s.fb := rfl
@[simp] theorem State.setDt_keys (b : Byte) : (s.setDt b).keys = s.keys := rfl
@[simp] theorem State.setDt_mem (b : Byte) : (s.setDt b).mem = s.mem := rfl
@[simp] theorem State.setDt_event (b : Byte) : (s.setDt b).event = s.event := rfl
@[simp] theorem State.setDt_draws (b : Byte) : (s.setDt b).draws = s.draws := rfl
@[simp] theorem State.setDt_freeDraws (b : Byte) : (s.setDt b).freeDraws = s.freeDraws := rfl
@[simp] theorem State.setDt_params (b : Byte) : (s.setDt b).params = s.params := rfl

/-! ### `setSt` -/

@[simp] theorem State.setSt_v (b : Byte) : (s.setSt b).v = s.v := rfl
@[simp] theorem State.setSt_pc (b : Byte) : (s.setSt b).pc = s.pc := rfl
@[simp] theorem State.setSt_i (b : Byte) : (s.setSt b).i = s.i := rfl
@[simp] theorem State.setSt_sp (b : Byte) : (s.setSt b).sp = s.sp := rfl
@[simp] theorem State.setSt_stack (b : Byte) : (s.setSt b).stack = s.stack := rfl
@[simp] theorem State.setSt_dt (b : Byte) : (s.setSt b).dt = s.dt := rfl
@[simp] theorem State.setSt_st (b : Byte) : (s.setSt b).st = b := rfl
@[simp] theorem State.setSt_opc (b : Byte) : (s.setSt b).opc = s.opc := rfl
@[simp] theorem State.setSt_invalidCount (b : Byte) : (s.setSt b).invalidCount = s.invalidCount := rfl
@[simp] theorem State.setSt_redraw (b : Byte) : (s.setSt b).redraw = s.redraw := rfl
@[simp] theorem State.setSt_fb (b : Byte) : (s.setSt b).fb = s.fb := rfl
@[simp] theorem State.setSt_keys (b : Byte) : (s.setSt b).keys = s.keys := rfl
@[simp] theorem State.setSt_mem (b : Byte) : (s.setSt b).mem = s.mem := rfl
@[simp] theorem State.setSt_event (b : Byte) : (s.setSt b).event = s.event := rfl
@[simp] theorem State.setSt_draws (b : Byte) : (s.setSt b).draws = s.draws := rfl
@[simp] theorem State.setSt_freeDraws (b : Byte) : (s.setSt b).freeDraws = s.freeDraws := rfl
@[simp] theorem State.setSt_params (b : Byte) : (s.setSt b).params = s.params := rfl

/-! ### `report` -/

@[simp] theorem State.report_v (e : Event) : (s.report e).v = s.v := rfl
@[simp] theorem State.report_pc (e : Event) : (s.report e).pc = s.pc := rfl
@[simp] theorem State.report_i (e : Event) : (s.report e).i = s.i := rfl
@[simp] theorem State.report_sp (e : Event) : (s.report e).sp = s.sp := rfl
@[simp] theorem State.report_stack (e : Event) : (s.report e).stack = s.stack := rfl
@[simp] theorem State.report_dt (e : Event) : (s.report e).dt = s.dt := rfl
@[simp] theorem State.report_st (e : Event) : (s.report e).st = s.st := rfl
@[simp] theorem State.report_opc (e : Event) : (s.report e).opc = s.opc := rfl
@[simp] theorem State.report_invalidCount (e : Event) : (s.report e).invalidCount = s.invalidCount := rfl
@[simp] theorem State.report_redraw (e : Event) : (s.report e).redraw = s.redraw := rfl
@[simp] theorem State.report_fb (e : Event) : (s.report e).fb = s.fb := rfl
@[simp] theorem State.report_keys (e : Event) : (s.report e).keys = s.keys := rfl
@[simp] theorem State.report_mem (e : Event) : (s.report e).mem = s.mem := rfl
@[simp] theorem State.report_event (e : Event) : (s.report e).event = e := rfl
@[simp] theorem State.report_draws (e : Event) : (s.report e).draws = s.draws := rfl
@[simp] theorem State.report_freeDraws (e : Event) : (s.report e).freeDraws = s.freeDraws := rfl
@[simp] theorem State.report_params (e : Event) : (s.report e).params = s.params := rfl

/-! ### `pokeByte` -/

@[simp] theorem State.pokeByte_v (a : Nat) (b : Byte) : (s.pokeByte a b).v = s.v := rfl
@[simp] theorem State.pokeByte_pc (a : Nat) (b : Byte) : (s.pokeByte a b).pc = s.pc := rfl
@[simp] theorem State.pokeByte_i (a : Nat) (b : Byte) : (s.pokeByte a b).i = s.i := rfl
@[simp] theorem State.pokeByte_sp (a : Nat) (b : Byte) : (s.pokeByte a b).sp = s.sp := rfl
@[simp] theorem State.pokeByte_stack (a : Nat) (b : Byte) : (s.pokeByte a b).stack = s.stack := rfl
@[simp] theorem State.pokeByte_dt (a : Nat) (b : Byte) : (s.pokeByte a b).dt = s.dt := rfl
@[simp] theorem State.pokeByte_st (a : Nat) (b : Byte) : (s.pokeByte a b).st = s.st := rfl
@[simp] theorem State.pokeByte_opc (a : Nat) (b : Byte) : (s.pokeByte a b).opc = s.opc := rfl
@[simp] theorem State.pokeByte_invalidCount (a : Nat) (b : Byte) : (s.pokeByte a b).invalidCount = s.invalidCount := rfl
@[simp] theorem State.pokeByte_redraw (a : Nat) (b : Byte) : (s.pokeByte a b).redraw = s.redraw := rfl
@[simp] theorem State.pokeByte_fb (a : Nat) (b : Byte) : (s.pokeByte a b).fb = s.fb := rfl
@[simp] theorem State.pokeByte_keys (a : Nat) (b : Byte) : (s.pokeByte a b).keys = s.keys := rfl
@[simp] theorem State.pokeByte_mem (a : Nat) (b : Byte) : (s.pokeByte a b).mem = Memory.write s.params s.mem a b := rfl
@[simp] theorem State.pokeByte_event (a : Nat) (b : Byte) : (s.pokeByte a b).event = s.event := rfl
@[simp] theorem State.pokeByte_draws (a : Nat) (b : Byte) : (s.pokeByte a b).draws = s.draws := rfl
@[simp] theorem State.pokeByte_freeDraws (a : Nat) (b : Byte) : (s.pokeByte a b).freeDraws = s.freeDraws := rfl
@[simp] theorem State.pokeByte_params (a : Nat) (b : Byte) : (s.pokeByte a b).params = s.params := rfl

/-! ### `fullReset` -/

@[simp] theorem State.fullReset_v : (s.fullReset).v = Vector.replicate 16 0 := rfl
@[simp] theorem State.fullReset_pc : (s.fullReset).pc = 0x200 := rfl
@[simp] theorem State.fullReset_i : (s.fullReset).i = 0 := rfl
@[simp] theorem State.fullReset_sp : (s.fullReset).sp = 0 := rfl
@[simp] theorem State.fullReset_stack : (s.fullReset).stack = Vector.replicate 16 0 := rfl
@[simp] theorem State.fullReset_dt : (s.fullReset).dt = s.dt := rfl
@[simp] theorem State.fullReset_st : (s.fullReset).st = s.st := rfl
@[simp] theorem State.fullReset_opc : (s.fullReset).opc = s.opc := rfl
@[simp] theorem State.fullReset_invalidCount : (s.fullReset).invalidCount = s.invalidCount := rfl
@[simp] theorem State.fullReset_redraw : (s.fullReset).redraw = s.redraw := rfl
@[simp] theorem State.fullReset_fb : (s.fullReset).fb = s.fb := rfl
@[simp] theorem State.fullReset_keys : (s.fullReset).keys = s.keys := rfl
@[simp] theorem State.fullReset_mem : (s.fullReset).mem = s.mem := rfl
@[simp] theorem State.fullReset_event : (s.fullReset).event = s.event := rfl
@[simp] theorem State.fullReset_draws : (s.fullReset).draws = s.draws := rfl
@[simp] theorem State.fullReset_freeDraws : (s.fullReset).freeDraws = s.freeDraws := rfl
@[simp] theorem State.fullReset_params : (s.fullReset).params = s.params := rfl

/-! ### `countInvalid` -/

@[simp] theorem State.countInvalid_v : (s.countInvalid).v = s.v := rfl
@[simp] theorem State.countInvalid_pc : (s.countInvalid).pc = 0x200 := rfl
@[simp] theorem State.countInvalid_i : (s.countInvalid).i = s.i := rfl
@[simp] theorem State.countInvalid_sp : (s.countInvalid).sp = s.sp := rfl
@[simp] theorem State.countInvalid_stack : (s.countInvalid).stack = s.stack := rfl
@[simp] theorem State.countInvalid_dt : (s.countInvalid).dt = s.dt := rfl
@[simp] theorem State.countInvalid_st : (s.countInvalid).st = s.st := rfl
@[simp] theorem State.countInvalid_opc : (s.countInvalid).opc = s.opc := rfl
@[simp] theorem State.countInvalid_invalidCount : (s.countInvalid).invalidCount = s.invalidCount + 1 := rfl
@[simp] theorem State.countInvalid_redraw : (s.countInvalid).redraw = s.redraw := rfl
@[simp] theorem State.countInvalid_fb : (s.countInvalid).fb = s.fb := rfl
@[simp] theorem State.countInvalid_keys : (s.countInvalid).keys = s.keys := rfl
@[simp] theorem State.countInvalid_mem : (s.countInvalid).mem = s.mem := rfl
@[simp] theorem State.countInvalid_event : (s.countInvalid).event = s.event := rfl
@[simp] theorem State.countInvalid_draws : (s.countInvalid).draws = s.draws := rfl
@[simp] theorem State.countInvalid_freeDraws : (s.countInvalid).freeDraws = s.freeDraws := rfl
@[simp] theorem State.countInvalid_params : (s.countInvalid).params = s.params := rfl

/-! ### `clearCount` -/

@[simp] theorem State.clearCount_v : (s.clearCount).v = s.v := rfl
@[simp] theorem State.clearCount_pc : (s.clearCount).pc = s.pc := rfl
@[simp] theorem State.clearCount_i : (s.clearCount).i = s.i := rfl
@[simp] theorem State.clearCount_sp : (s.clearCount).sp = s.sp := rfl
@[simp] theorem State.clearCount_stack : (s.clearCount).stack = s.stack := rfl
@[simp] theorem State.clearCount_dt : (s.clearCount).dt = s.dt := rfl
@[simp] theorem State.clearCount_st : (s.clearCount).st = s.st := rfl
@[simp] theorem State.clearCount_opc : (s.clearCount).opc = s.opc := rfl
@[simp] theorem State.clearCount_invalidCount : (s.clearCount).invalidCount = 0 := rfl
@[simp] theorem State.clearCount_redraw : (s.clearCount).redraw = s.redraw := rfl
@[simp] theorem State.clearCount_fb : (s.clearCount).fb = s.fb := rfl
@[simp] theorem State.clearCount_keys : (s.clearCount).keys = s.keys := rfl
@[simp] theorem State.clearCount_mem : (s.clearCount).mem = s.mem := rfl
@[simp] theorem State.clearCount_event : (s.clearCount).event = s.event := rfl
@[simp] theorem State.clearCount_draws : (s.clearCount).draws = s.draws := rfl
@[simp] theorem State.clearCount_freeDraws : (s.clearCount).freeDraws = s.freeDraws := rfl
@[simp] theorem State.clearCount_params : (s.clearCount).params = s.params := rfl

/-! ### `tick` -/

@[simp] theorem State.tick_v : (s.tick).v = s.v := rfl
@[simp] theorem State.tick_pc : (s.tick).pc = s.pc := rfl
@[simp] theorem State.tick_i : (s.tick).i = s.i := rfl
@[simp] theorem State.tick_sp : (s.tick).sp = s.sp := rfl
@[simp] theorem State.tick_stack : (s.tick).stack = s.stack := rfl
@[simp] theorem State.tick_dt : (s.tick).dt = BitVec.ofNat 8 (s.dt.toNat - 1) := rfl
@[simp] theorem State.tick_st : (s.tick).st = BitVec.ofNat 8 (s.st.toNat - 1) := rfl
@[simp] theorem State.tick_opc : (s.tick).opc = s.opc := rfl
@[simp] theorem State.tick_invalidCount : (s.tick).invalidCount = s.invalidCount := rfl
@[simp] theorem State.tick_redraw : (s.tick).redraw = s.redraw := rfl
@[simp] theorem State.tick_fb : (s.tick).fb = s.fb := rfl
@[simp] theorem State.tick_keys : (s.tick).keys = s.keys := rfl
@[simp] theorem State.tick_mem : (s.tick).mem = s.mem := rfl
@[simp] theorem State.tick_event : (s.tick).event = s.event := rfl
@[simp] theorem State.tick_draws : (s.tick).draws = s.draws := rfl
@[simp] theorem State.tick_freeDraws : (s.tick).freeDraws = s.freeDraws := rfl
@[simp] theorem State.tick_params : (s.tick).params = s.params := rfl

/-! ### `setRegsFrom0` -/

@[simp] theorem State.setRegsFrom0_v (bs : List Byte) : (s.setRegsFrom0 bs).v = loadRegs s.v 0 bs := rfl
@[simp] theorem State.setRegsFrom0_pc (bs : List Byte) : (s.setRegsFrom0 bs).pc = s.pc := rfl
@[simp] theorem State.setRegsFrom0_i (bs : List Byte) : (s.setRegsFrom0 bs).i = s.i := rfl
@[simp] theorem State.setRegsFrom0_sp (bs : List Byte) : (s.setRegsFrom0 bs).sp = s.sp := rfl
@[simp] theorem State.setRegsFrom0_stack (bs : List Byte) : (s.setRegsFrom0 bs).stack = s.stack := rfl
@[simp] theorem State.setRegsFrom0_dt (bs : List Byte) : (s.setRegsFrom0 bs).dt = s.dt := rfl
@[simp] theorem State.setRegsFrom0_st (bs : List Byte) : (s.setRegsFrom0 bs).st = s.st := rfl
@[simp] theorem State.setRegsFrom0_opc (bs : List Byte) : (s.setRegsFrom0 bs).opc = s.opc := rfl
@[simp] theorem State.setRegsFrom0_invalidCount (bs : List Byte) : (s.setRegsFrom0 bs).invalidCount = s.invalidCount := rfl
@[simp] theorem State.setRegsFrom0_redraw (bs : List Byte) : (s.setRegsFrom0 bs).redraw = s.redraw := rfl
@[simp] theorem State.setRegsFrom0_fb (bs : List Byte) : (s.setRegsFrom0 bs).fb = s.fb := rfl
@[simp] theorem State.setRegsFrom0_keys (bs : List Byte) : (s.setRegsFrom0 bs).keys = s.keys := rfl
@[simp] theorem State.setRegsFrom0_mem (bs : List Byte) : (s.setRegsFrom0 bs).mem = s.mem := rfl
@[simp] theorem State.setRegsFrom0_event (bs : List Byte) : (s.setRegsFrom0 bs).event = s.event := rfl
@[simp] theorem State.setRegsFrom0_draws (bs : List Byte) : (s.setRegsFrom0 bs).draws = s.draws := rfl
@[simp] theorem State.setRegsFrom0_freeDraws (bs : List Byte) : (s.setRegsFrom0 bs).freeDraws = s.freeDraws := rfl
@[simp] theorem State.setRegsFrom0_params (bs : List Byte) : (s.setRegsFrom0 bs).params = s.params := rfl

/-! ### `paint` -/

@[simp] theorem State.paint_v (fb : Framebuffer) (c : Bool) : (s.paint fb c).v = s.v := rfl
@[simp] theorem State.paint_pc (fb : Framebuffer) (c : Bool) : (s.paint fb c).pc = s.pc := rfl
@[simp] theorem State.paint_i (fb : Framebuffer) (c : Bool) : (s.paint fb c).i = s.i := rfl
@[simp] theorem State.paint_sp (fb : Framebuffer) (c : Bool) : (s.paint fb c).sp = s.sp := rfl
@[simp] theorem State.paint_stack (fb : Framebuffer) (c : Bool) : (s.paint fb c).stack = s.stack := rfl
@[simp] theorem State.paint_dt (fb : Framebuffer) (c : Bool) : (s.paint fb c).dt = s.dt := rfl
@[simp] theorem State.paint_st (fb : Framebuffer) (c : Bool) : (s.paint fb c).st = s.st := rfl
@[simp] theorem State.paint_opc (fb : Framebuffer) (c : Bool) : (s.paint fb c).opc = s.opc := rfl
@[simp] theorem State.paint_invalidCount (fb : Framebuffer) (c : Bool) : (s.paint fb c).invalidCount = s.invalidCount := rfl
@[simp] theorem State.paint_redraw (fb : Framebuffer) (c : Bool) : (s.paint fb c).redraw = (s.redraw || c) := rfl
@[simp] theorem State.paint_fb (fb : Framebuffer) (c : Bool) : (s.paint fb c).fb = fb := rfl
@[simp] theorem State.paint_keys (fb : Framebuffer) (c : Bool) : (s.paint fb c).keys = s.keys := rfl
@[simp] theorem State.paint_mem (fb : Framebuffer) (c : Bool) : (s.paint fb c).mem = s.mem := rfl
@[simp] theorem State.paint_event (fb : Framebuffer) (c : Bool) : (s.paint fb c).event = s.event := rfl
@[simp] theorem State.paint_draws (fb : Framebuffer) (c : Bool) : (s.paint fb c).draws = s.draws := rfl
@[simp] theorem State.paint_freeDraws (fb : Framebuffer) (c : Bool) : (s.paint fb c).freeDraws = s.freeDraws := rfl
@[simp] theorem State.paint_params (fb : Framebuffer) (c : Bool) : (s.paint fb c).params = s.params := rfl

end Sys2Proof.Machine
end

