-- ==== Sys2Proof/Laws/Memory.lean ====
section
/-! SUPPORT. The memory's laws: a read after a write, and the canonical form that every write keeps (20_memory.md R70, R81). -/

namespace Sys2Proof.Machine

open Config (Params)

variable (p : Params)

theorem Memory.read_erase_same (m : List Host.Cell) (a : Nat) :
    Memory.read p (Memory.erase m a) a = Memory.unlisted p a := by
  induction m with
  | nil => rfl
  | cons c rest ih =>
    obtain ⟨b, w⟩ := c
    by_cases h : a = b
    · simp [Memory.erase, h] at ih ⊢; exact ih
    · simp [Memory.erase, Memory.read, h, ih]

theorem Memory.read_erase_other (m : List Host.Cell) {a c : Nat} (h : c ≠ a) :
    Memory.read p (Memory.erase m a) c = Memory.read p m c := by
  induction m with
  | nil => rfl
  | cons e rest ih =>
    obtain ⟨b, w⟩ := e
    by_cases hab : a = b
    · subst hab; simp [Memory.erase, Memory.read, h, ih]
    · by_cases hcb : c = b
      · subst hcb; simp [Memory.erase, Memory.read, hab]
      · simp [Memory.erase, Memory.read, hab, hcb, ih]

/-- No entry of the list is for `a`. -/
theorem Memory.not_listed_erase (m : List Host.Cell) (a : Nat) : ∀ e ∈ Memory.erase m a, e.1 ≠ a := by
  induction m with
  | nil => simp [Memory.erase]
  | cons e rest ih =>
    obtain ⟨b, w⟩ := e
    by_cases h : a = b
    · subst h
      rw [Memory.erase, if_pos rfl]
      exact ih
    · simp only [Memory.erase, h, if_false]
      intro e' he
      rcases List.mem_cons.mp he with rfl | he
      · exact fun hb => h hb.symm
      · exact ih e' he

theorem Memory.read_insert_same (m : List Host.Cell) (a : Nat) (v : Byte) (h : ∀ e ∈ m, e.1 ≠ a) :
    Memory.read p (Memory.insert m a v) a = v := by
  induction m with
  | nil => simp [Memory.insert, Memory.read]
  | cons e rest ih =>
    obtain ⟨b, w⟩ := e
    have hb : a ≠ b := fun hab => h (b, w) (by simp) hab.symm
    by_cases hlt : a < b
    · simp [Memory.insert, Memory.read, hlt]
    · simp [Memory.insert, Memory.read, hlt, hb, ih fun e he => h e (by simp [he])]

theorem Memory.read_insert_other (m : List Host.Cell) {a c : Nat} (v : Byte) (h : c ≠ a) :
    Memory.read p (Memory.insert m a v) c = Memory.read p m c := by
  induction m with
  | nil => simp [Memory.insert, Memory.read, h]
  | cons e rest ih =>
    obtain ⟨b, w⟩ := e
    by_cases hlt : a < b
    · simp [Memory.insert, Memory.read, hlt, h]
    · simp [Memory.insert, Memory.read, hlt, ih]

/-- A read after a write to the same address gives the byte written. -/
theorem Memory.read_write_same (m : List Host.Cell) (a : Nat) (v : Byte) :
    Memory.read p (Memory.write p m a v) a = v := by
  by_cases h : v = Memory.unlisted p a
  · simp [Memory.write, h, Memory.read_erase_same]
  · simp [Memory.write, h, Memory.read_insert_same p _ a v (Memory.not_listed_erase m a)]

/-- A write leaves every other address alone. -/
theorem Memory.read_write_other (m : List Host.Cell) {a c : Nat} (v : Byte) (h : c ≠ a) :
    Memory.read p (Memory.write p m a v) c = Memory.read p m c := by
  by_cases hv : v = Memory.unlisted p a
  · simp [Memory.write, hv, Memory.read_erase_other p m h]
  · simp [Memory.write, hv, Memory.read_insert_other p _ v h, Memory.read_erase_other p m h]

/-! ### The canonical form -/

theorem Memory.wfFrom_mono {lo lo' : Nat} (h : lo' ≤ lo) {m : List Host.Cell} (hm : Memory.wfFrom p lo m = true) :
    Memory.wfFrom p lo' m = true := by
  cases m with
  | nil => rfl
  | cons e rest =>
    obtain ⟨b, w⟩ := e
    simp only [Memory.wfFrom, Bool.and_eq_true, decide_eq_true_eq] at hm ⊢
    exact ⟨⟨⟨le_trans h hm.1.1.1, hm.1.1.2⟩, hm.1.2⟩, hm.2⟩

theorem Memory.wfFrom_erase {lo : Nat} {m : List Host.Cell} (hm : Memory.wfFrom p lo m = true) (a : Nat) :
    Memory.wfFrom p lo (Memory.erase m a) = true := by
  induction m generalizing lo with
  | nil => rfl
  | cons e rest ih =>
    obtain ⟨b, w⟩ := e
    simp only [Memory.wfFrom, Bool.and_eq_true, decide_eq_true_eq] at hm
    by_cases h : a = b
    · simp only [Memory.erase, h, if_true]
      exact h ▸ ih (Memory.wfFrom_mono p (by omega) hm.2)
    · simp only [Memory.erase, h, if_false, Memory.wfFrom, Bool.and_eq_true, decide_eq_true_eq]
      exact ⟨hm.1, ih hm.2⟩

theorem Memory.wfFrom_insert {lo : Nat} {m : List Host.Cell} (hm : Memory.wfFrom p lo m = true) {a : Nat} {v : Byte}
    (hlo : lo ≤ a) (ha : a < Config.memSize) (hv : v ≠ Memory.unlisted p a) (hn : ∀ e ∈ m, e.1 ≠ a) :
    Memory.wfFrom p lo (Memory.insert m a v) = true := by
  induction m generalizing lo with
  | nil =>
    simp only [Memory.insert, Memory.wfFrom, Bool.and_eq_true, decide_eq_true_eq]
    exact ⟨⟨⟨hlo, ha⟩, hv⟩, trivial⟩
  | cons e rest ih =>
    obtain ⟨b, w⟩ := e
    simp only [Memory.wfFrom, Bool.and_eq_true, decide_eq_true_eq] at hm
    have hb : b ≠ a := hn (b, w) (by simp)
    by_cases hlt : a < b
    · simp only [Memory.insert, hlt, if_true, Memory.wfFrom, Bool.and_eq_true, decide_eq_true_eq]
      exact ⟨⟨⟨hlo, ha⟩, hv⟩, ⟨⟨hlt, hm.1.1.2⟩, hm.1.2⟩, hm.2⟩
    · simp only [Memory.insert, hlt, if_false, Memory.wfFrom, Bool.and_eq_true, decide_eq_true_eq]
      exact ⟨hm.1, ih hm.2 (by omega) fun e he => hn e (by simp [he])⟩

/-- Every write below 4096 keeps the canonical form. -/
theorem Memory.wf_write {m : List Host.Cell} (hm : Memory.wf p m = true) {a : Nat} (ha : a < Config.memSize) (v : Byte) :
    Memory.wf p (Memory.write p m a v) = true := by
  unfold Memory.write
  split
  · exact Memory.wfFrom_erase p hm a
  · next hv =>
    exact Memory.wfFrom_insert p (Memory.wfFrom_erase p hm a) (Nat.zero_le a) ha hv (Memory.not_listed_erase m a)

/-- The memory after construction is in canonical form. -/
theorem Memory.wf_construct : Memory.wf p (State.construct p).mem = true := rfl

/-! ### The state's bytes -/

@[simp] theorem State.readByte_pokeByte_same (s : State) (a : Nat) (b : Byte) : (s.pokeByte a b).readByte a = b :=
  Memory.read_write_same s.params s.mem a b

theorem State.readByte_pokeByte_other (s : State) {a c : Nat} (b : Byte) (h : c ≠ a) :
    (s.pokeByte a b).readByte c = s.readByte c :=
  Memory.read_write_other s.params s.mem b h

/-- Storing a run of bytes changes the memory and nothing else. -/
theorem State.pokeBytes_eq (s : State) (a : Nat) (bs : List Byte) :
    s.pokeBytes a bs = { s with mem := (s.pokeBytes a bs).mem } := by
  induction bs generalizing s a with
  | nil => rfl
  | cons b bs ih => rw [State.pokeBytes, ih]; rfl

/-- A byte stored by a run of stores reads back. -/
theorem State.readByte_pokeBytes_inside (s : State) (a : Nat) (bs : List Byte) {k : Nat} (h : k < bs.length) :
    (s.pokeBytes a bs).readByte (a + k) = bs[k] := by
  have outside : ∀ (bs : List Byte) (s : State) (a c : Nat), c < a → (s.pokeBytes a bs).readByte c = s.readByte c := by
    intro bs
    induction bs with
    | nil => intros; rfl
    | cons b bs ih =>
      intro s a c hc
      rw [State.pokeBytes, ih _ _ _ (by omega), State.readByte_pokeByte_other _ _ (by omega)]
  induction bs generalizing s a k with
  | nil => simp at h
  | cons b bs ih =>
    cases k with
    | zero => rw [State.pokeBytes, outside _ _ _ _ (by omega)]; simp
    | succ k =>
      have := ih (s.pokeByte a b) (a + 1) (k := k) (by simpa using h)
      rw [State.pokeBytes]
      simpa [Nat.add_assoc, Nat.add_comm 1 k] using this

/-- A run of stores leaves every address outside the run alone. -/
theorem State.readByte_pokeBytes_outside (s : State) (a : Nat) (bs : List Byte) {c : Nat}
    (h : ¬(a ≤ c ∧ c < a + bs.length)) : (s.pokeBytes a bs).readByte c = s.readByte c := by
  induction bs generalizing s a with
  | nil => rfl
  | cons b bs ih =>
    simp only [List.length_cons] at h
    rw [State.pokeBytes, ih _ _ (by omega), State.readByte_pokeByte_other _ _ (by omega)]

/-- A run of stores below 4096 keeps the canonical form. -/
theorem State.wf_pokeBytes (s : State) (a : Nat) (bs : List Byte) (hs : Memory.wf s.params s.mem = true)
    (h : a + bs.length ≤ Config.memSize) : Memory.wf s.params (s.pokeBytes a bs).mem = true := by
  induction bs generalizing s a with
  | nil => exact hs
  | cons b bs ih =>
    simp only [List.length_cons] at h
    exact ih (s.pokeByte a b) (a + 1) (Memory.wf_write s.params hs (by omega) b) (by omega)

end Sys2Proof.Machine
end

