-- ==== Sys2Proof/Laws/Ops.lean ====
section
/-! SUPPORT. What each shared operation does, said once: registers, the cycle's beginning and end, the events, the stack, keys, and
the bounds-checked blocks. -/

namespace Sys2Proof.Machine

/-! ### General registers -/

theorem State.reg_setReg (s : State) (x y : Reg) (b : Byte) : (s.setReg x b).reg y = if y = x then b else s.reg y := by
  unfold State.reg State.setReg
  rw [Vector.getElem_set]
  by_cases h : y = x
  · simp [h]
  · have : x.toNat ≠ y.toNat := fun e => h (BitVec.eq_of_toNat_eq e.symm)
    simp [h, this]

@[simp] theorem State.reg_setReg_same (s : State) (x : Reg) (b : Byte) : (s.setReg x b).reg x = b := by
  simp [State.reg_setReg]

theorem State.reg_setReg_other (s : State) {x y : Reg} (b : Byte) (h : y ≠ x) : (s.setReg x b).reg y = s.reg y := by
  simp [State.reg_setReg, h]

@[simp] theorem State.reg_fullReset (s : State) (x : Reg) : s.fullReset.reg x = 0 := by
  simp [State.reg]

/-- Two states with the same registers field agree on every register. -/
theorem State.reg_congr {s t : State} (h : t.v = s.v) (x : Reg) : t.reg x = s.reg x := by
  unfold State.reg; simp only [h]

/-- The final VF and V[x] of the flag-writing instructions: with x = 15 the result stays (R201). -/
theorem State.reg_setFlagThen (s : State) (x y : Reg) (flag result : Byte) :
    (s.setFlagThen x flag result).reg y = if y = x then result else if y = VF then flag else s.reg y := by
  simp [State.setFlagThen, State.reg_setReg]

/-- Writing flag and result changes the registers and nothing else. -/
theorem State.setFlagThen_eq (s : State) (x : Reg) (flag result : Byte) :
    s.setFlagThen x flag result = { s with v := (s.setFlagThen x flag result).v } := rfl

/-! ### Frames -/

/-- The same memory with the same parameters reads the same. -/
theorem State.readByte_congr {s t : State} (hm : t.mem = s.mem) (hp : t.params = s.params) (a : Nat) :
    t.readByte a = s.readByte a := by
  unfold State.readByte; rw [hm, hp]

/-! ### Clamping -/

theorem clamp_bounds (k : Nat) {lo hi : Nat} (h : lo ≤ hi) : lo ≤ clamp k lo hi ∧ clamp k lo hi ≤ hi := by
  unfold clamp; omega

theorem clamp_of_mem {k lo hi : Nat} (h₁ : lo ≤ k) (h₂ : k ≤ hi) : clamp k lo hi = k := by
  unfold clamp; omega

/-- Every fetch is inside [0x200, 0xFFE] (R140). -/
theorem State.fetchAddr_bounds (s : State) : 0x200 ≤ s.fetchAddr ∧ s.fetchAddr ≤ 0xFFE :=
  clamp_bounds _ (by simp)

/-! ### The beginning of a cycle -/

theorem State.memRead8_ok (s : State) {a : Nat} (h : a < 4096) : s.memRead8 a = .ok (s.readByte a) := by
  simp [State.memRead8, h]

theorem State.memRead_ok (s : State) {a n : Nat} (h : a + n ≤ 4096) :
    s.memRead a n = .ok ((List.range n).map fun k => s.readByte (a + k)) := by
  simp [State.memRead, h]

theorem State.memWrite_ok (s : State) {a : Nat} {bytes : List Byte} (h : a + bytes.length ≤ 4096) :
    s.memWrite a bytes = .ok (s.pokeBytes a bytes) := by
  simp [State.memWrite, h]

/-- Clamp, fetch and advance never fail: every cycle begins (R140 to R142). -/
theorem State.beginCycle_eq (s : State) : s.beginCycle = .ok s.fetched := by
  obtain ⟨hlo, hhi⟩ := s.fetchAddr_bounds
  have hpc : s.clampPc.pc.toNat = s.fetchAddr := by
    simp only [State.clampPc, State.setPc_pc, BitVec.toNat_ofNat]; omega
  have hadv : BitVec.ofNat 16 s.fetchAddr + 2 = BitVec.ofNat 16 (s.fetchAddr + 2) := by
    rw [BitVec.ofNat_add]; rfl
  simp only [State.beginCycle, State.fetch, hpc, State.memRead8_ok s.clampPc (show s.fetchAddr < 4096 by omega),
    State.memRead8_ok s.clampPc (show s.fetchAddr + 1 < 4096 by omega)]
  simp only [State.advance, State.report, State.fetched, State.fetchedWord, State.clampPc, State.setPc, State.readByte, hadv]

/-- The word fetched, as a number: the byte at the lower address is the high one (R72). -/
theorem State.fetchedWord_toNat (s : State) :
    s.fetchedWord.toNat = (s.readByte s.fetchAddr).toNat * 256 + (s.readByte (s.fetchAddr + 1)).toNat := by
  have := (s.readByte (s.fetchAddr + 1)).isLt
  simp only [State.fetchedWord, wordOfBytes, BitVec.toNat_append, Nat.shiftLeft_eq]
  rw [← Nat.shiftLeft_eq, ← Nat.shiftLeft_add_eq_or_of_lt (by omega), Nat.shiftLeft_eq]

/-! ### The checks and the dispatch -/

/-- Everything the checks and the dispatch can answer (R144, R145, R147). -/
theorem State.dispatch_cases (c : State) :
    (decode c.opc = .invalid .fRange ∧ c.dispatch = .ended c.raiseInvalid) ∨
    (decode c.opc ≠ .invalid .fRange ∧ 16 ≤ c.sp.val ∧ c.dispatch = .ended (c.raiseFullReset .stackOverflow)) ∨
    (decode c.opc = .invalid .selector ∧ c.sp.val < 16 ∧ c.dispatch = .ended c.raiseInvalid) ∨
    (∃ i, decode c.opc = .instr i ∧ c.sp.val < 16 ∧ c.dispatch = .run i) := by
  unfold State.dispatch
  by_cases hb : decode c.opc = .invalid .fRange
  · exact .inl ⟨hb, by simp [hb]⟩
  by_cases hc : 16 ≤ c.sp.val
  · exact .inr (.inl ⟨hb, hc, by simp [hb, hc]⟩)
  have hc' : c.sp.val < 16 := by omega
  cases hd : decode c.opc with
  | instr i => exact .inr (.inr (.inr ⟨i, rfl, hc', by simp [hc]⟩))
  | invalid why =>
    cases why with
    | fRange => exact absurd hd hb
    | selector => exact .inr (.inr (.inl ⟨rfl, hc', by simp [hc]⟩))

/-! ### The events -/

/-- An invalid word that does not escalate (R341). -/
theorem State.raiseInvalid_counts (s : State) (h : s.invalidCount < 10) :
    s.raiseInvalid = s.countInvalid.report .invalidOpcode := by
  simp [State.raiseInvalid, show ¬(s.invalidCount + 1 > 10) by omega]

/-- An invalid word that escalates (R343). -/
theorem State.raiseInvalid_escalates (s : State) (h : 10 ≤ s.invalidCount) :
    s.raiseInvalid = s.countInvalid.fullReset.clearCount.report .invalidEscalation := by
  simp [State.raiseInvalid, show s.invalidCount + 1 > 10 by omega]

/-! ### The end of a cycle -/

/-- The end of a cycle touches the counter and the timers only (R150, R151). -/
theorem State.endCycle_eq (s : State) :
    s.endCycle = { s with
      invalidCount := if s.params.invalidCountClearsOnValid then 0 else s.invalidCount
      dt := BitVec.ofNat 8 (s.dt.toNat - 1)
      st := BitVec.ofNat 8 (s.st.toNat - 1) } := by
  unfold State.endCycle
  split <;> rfl

/-- A timer after a decrement, floored at zero (R150). -/
theorem tick_toNat (b : Byte) : (BitVec.ofNat 8 (b.toNat - 1)).toNat = b.toNat - 1 := by
  have := b.isLt
  rw [BitVec.toNat_ofNat]; omega

/-! ### The step -/

/-- Everything a step can do (R152): the invalid-opcode event, the overflow reset, or one instruction and the end of its cycle. -/
theorem step_cases (s : State) :
    (s.RaisesInvalid ∧ step s = .next s.fetched.raiseInvalid) ∨
    (decode s.fetchedWord ≠ .invalid .fRange ∧ 16 ≤ s.sp.val ∧ step s = .next (s.fetched.raiseFullReset .stackOverflow)) ∨
    (∃ i, s.Dispatches i ∧
      step s = finishCycle (exec i s.fetched)) := by
  rcases s.fetched.dispatch_cases with ⟨hb, hd⟩ | ⟨hb, hc, hd⟩ | ⟨hb, hc, hd⟩ | ⟨i, hb, hc, hd⟩
  · exact .inl ⟨.inl hb, by simp only [step, State.beginCycle_eq, hd]⟩
  · exact .inr (.inl ⟨hb, hc, by simp only [step, State.beginCycle_eq, hd]⟩)
  · exact .inl ⟨.inr ⟨hb, hc⟩, by simp only [step, State.beginCycle_eq, hd]⟩
  · refine .inr (.inr ⟨i, ⟨hb, hc⟩, ?_⟩)
    simp only [step, State.beginCycle_eq, hd]
    cases exec i s.fetched <;> rfl

/-- A run whose first step gives a next state goes on from it. -/
theorem run_succ {s t : State} (h : step s = .next t) (k : Nat) : Sys2Proof.core.run (k + 1) s = Sys2Proof.core.run k t := by
  have h' : Sys2Proof.core.step s = .next t := h
  simp only [Host.Core.run, h']

/-- A run of `k` steps, and one more. -/
theorem run_succ_of_run {s t : State} {k : Nat} (h : Sys2Proof.core.run k s = .next t) :
    Sys2Proof.core.run (k + 1) s = step t := by
  induction k generalizing s with
  | zero =>
    have : s = t := Host.Outcome.next.inj h
    subst this
    show Sys2Proof.core.run 1 s = Sys2Proof.core.step s
    cases hs : Sys2Proof.core.step s <;> simp [Host.Core.run, hs]
  | succ k ih =>
    cases hs : Sys2Proof.core.step s with
    | next u => rw [run_succ hs] at h ⊢; exact ih h
    | fault r => simp [Host.Core.run, hs] at h
    | refused r => simp [Host.Core.run, hs] at h

/-! ### The call stack -/

theorem State.pushReturn_some (s : State) (h : s.sp.val < 16) :
    s.pushReturn = some { s with stack := s.stack.set s.sp.val s.pc h, sp := ⟨s.sp.val + 1, by omega⟩ } := by
  simp [State.pushReturn, h]

theorem State.pushReturn_none (s : State) (h : 16 ≤ s.sp.val) : s.pushReturn = none := by
  simp [State.pushReturn, show ¬ s.sp.val < 16 by omega]

theorem State.popReturn_some (s : State) (h : s.sp.val ≠ 0) :
    s.popReturn = some { s with sp := ⟨s.sp.val - 1, by omega⟩, pc := s.stack[s.sp.val - 1]'(by omega) } := by
  rw [State.popReturn, if_neg h]

theorem State.popReturn_none (s : State) (h : s.sp.val = 0) : s.popReturn = none := by
  rw [State.popReturn, if_pos h]

/-! ### The random-byte source -/

/-- A draw touches the source only (R240). -/
theorem State.consumeDraw_eq (s : State) :
    s.consumeDraw = { s with draws := s.consumeDraw.draws, freeDraws := s.consumeDraw.freeDraws } := by
  unfold State.consumeDraw; split <;> rfl

/-! ### Skips and keys -/

/-- A skip touches PC only (R170). -/
theorem State.skipIf_eq (s : State) (c : Bool) : s.skipIf c = { s with pc := if c then s.pc + 2 else s.pc } := by
  cases c <;> rfl

/-- The key found is the lowest one down (R283). -/
theorem State.firstKey_some {s : State} {k : Nat} (h : s.firstKey = some k) :
    k < 16 ∧ s.keyDown k = true ∧ ∀ j < k, s.keyDown j = false := by
  have hk := List.find?_some h
  have hm := List.mem_of_find?_eq_some h
  refine ⟨by simpa using hm, hk, fun j hj => ?_⟩
  obtain ⟨_, as, bs, hl, ha⟩ := List.find?_eq_some_iff_append.mp h
  have hjr : j ∈ as := by
    have hlen : as.length = k := by
      have h1 : (List.range 16)[as.length]? = some k := by rw [hl]; simp
      obtain ⟨hlt, he⟩ := List.getElem?_eq_some_iff.mp h1
      simpa using he
    have h2 : (List.range 16)[j]? = some j := by
      have : k < 16 := by simpa using hm
      exact List.getElem?_range (by omega)
    rw [hl, List.getElem?_append_left (by omega)] at h2
    exact List.mem_of_getElem? h2
  simpa using ha j hjr

/-- No key is found when none is down (R283). -/
theorem State.firstKey_none {s : State} (h : s.firstKey = none) : ∀ j, s.keyDown j = false := by
  intro j
  by_cases hj : j < 16
  · have := List.find?_eq_none.mp h j (by simpa using hj)
    simpa using this
  · simp [State.keyDown, hj]

/-! ### Memory blocks -/

/-- A store past the end of memory reports and changes nothing else (R76, R346). -/
theorem State.storeAtI_oob (s : State) (cause : Event) (bytes : List Byte) (h : 4096 < s.i.toNat + bytes.length) :
    s.storeAtI cause bytes = .next (s.report cause) := by
  simp [State.storeAtI, h]

/-- A store inside memory stores every byte (R76). -/
theorem State.storeAtI_ok (s : State) (cause : Event) (bytes : List Byte) (h : s.i.toNat + bytes.length ≤ 4096) :
    s.storeAtI cause bytes = .next (s.pokeBytes s.i.toNat bytes) := by
  simp [State.storeAtI, show ¬ 4096 < s.i.toNat + bytes.length by omega, State.memWrite_ok s h]

/-- A load past the end of memory reports and changes nothing else (R76, R346). -/
theorem State.loadAtI_oob (s : State) (cause : Event) (n : Nat) (use : List Byte → State) (h : 4096 < s.i.toNat + n) :
    s.loadAtI cause n use = .next (s.report cause) := by
  simp [State.loadAtI, h]

/-- A load inside memory uses the bytes at I, I + 1, ... (R76). -/
theorem State.loadAtI_ok (s : State) (cause : Event) (n : Nat) (use : List Byte → State) (h : s.i.toNat + n ≤ 4096) :
    s.loadAtI cause n use = .next (use ((List.range n).map fun k => s.readByte (s.i.toNat + k))) := by
  simp [State.loadAtI, show ¬ 4096 < s.i.toNat + n by omega, State.memRead_ok s h]

@[simp] theorem State.regsTo_length (s : State) (x : Reg) : (s.regsTo x).length = x.toNat + 1 := by
  have := x.isLt
  simp [State.regsTo]; omega

/-- Byte `k` of a block to store is V[k] (R307). -/
theorem State.regsTo_getElem (s : State) (x : Reg) {k : Nat} (h : k < (s.regsTo x).length) :
    (s.regsTo x)[k] = s.reg (BitVec.ofNat 4 k) := by
  have hk : k < 16 := by have := x.isLt; simp at h; omega
  simp [State.regsTo, State.reg, Nat.mod_eq_of_lt hk]

/-- Register `j` after loading the bytes from `k` on (R308). -/
theorem loadRegs_getElem (v : Vector Byte 16) (k : Nat) (bs : List Byte) {j : Nat} (hj : j < 16) :
    (loadRegs v k bs)[j] = if h : k ≤ j ∧ j < k + bs.length then bs[j - k]'(by omega) else v[j] := by
  induction bs generalizing v k with
  | nil => simp [loadRegs, show ¬(k ≤ j ∧ j < k) by omega]
  | cons b bs ih =>
    rw [loadRegs, ih]
    by_cases h1 : k + 1 ≤ j ∧ j < k + 1 + bs.length
    · have h2 : k ≤ j ∧ j < k + (b :: bs).length := by simp; omega
      rw [dif_pos h1, dif_pos h2]
      have h3 : j - k = (j - (k + 1)) + 1 := by omega
      simp [h3]
    · rw [dif_neg h1, Vector.getElem_setIfInBounds]
      by_cases h2 : k = j
      · subst h2; simp
      · rw [if_neg h2, dif_neg]; simp; omega

@[simp] theorem bcdDigits_length (b : Byte) : (bcdDigits b).length = 3 := rfl

end Sys2Proof.Machine
end

