-- ==== Sys2Proof/Laws/Frames.lean ====
section
/-! SUPPORT. Frames: what each update of the state leaves alone, in the terms of Safety.lean, and how frames compose. -/

namespace Sys2Proof.Machine

theorem State.SameBut.refl (s : State) (l : List Field) : s.SameBut s l := by
  intro f _
  cases f <;> first | rfl | exact fun _ => rfl

theorem State.SameBut.mono {s t : State} {l l' : List Field} (h : s.SameBut t l) (hl : ∀ f ∈ l, f ∈ l') : s.SameBut t l' :=
  fun f hf => h f fun hm => hf (hl f hm)

theorem State.SameIn.trans {s t u : State} {f : Field} (h : s.SameIn t f) (h' : t.SameIn u f) : s.SameIn u f := by
  cases f <;> first | exact Eq.trans h' h | exact fun a => (h' a).trans (h a)

theorem State.SameBut.trans {s t u : State} {l l' : List Field} (h : s.SameBut t l) (h' : t.SameBut u l') :
    s.SameBut u (l ++ l') := by
  intro f hf
  rw [List.mem_append, not_or] at hf
  exact (h f hf.1).trans (h' f hf.2)

/-- A state that agrees in every field outside the list, memory included, is the same but for the list. -/
theorem State.SameBut.readByte {s t : State} {l : List Field} (h : s.SameBut t l) (hm : Field.mem ∉ l) (a : Nat) :
    t.readByte a = s.readByte a := h .mem hm a

variable (s : State)

theorem State.setReg_sameBut (x : Reg) (b : Byte) : s.SameBut (s.setReg x b) [.v] := by
  intro f hf
  cases f <;> first | rfl | exact fun _ => rfl | simp at hf

theorem State.setPc_sameBut (a : Nat) : s.SameBut (s.setPc a) [.pc] := by
  intro f hf
  cases f <;> first | rfl | exact fun _ => rfl | simp at hf

theorem State.skip_sameBut : s.SameBut (s.skip) [.pc] := by
  intro f hf
  cases f <;> first | rfl | exact fun _ => rfl | simp at hf

theorem State.rewind_sameBut : s.SameBut (s.rewind) [.pc] := by
  intro f hf
  cases f <;> first | rfl | exact fun _ => rfl | simp at hf

theorem State.setI_sameBut (a : Nat) : s.SameBut (s.setI a) [.i] := by
  intro f hf
  cases f <;> first | rfl | exact fun _ => rfl | simp at hf

theorem State.setDt_sameBut (b : Byte) : s.SameBut (s.setDt b) [.dt] := by
  intro f hf
  cases f <;> first | rfl | exact fun _ => rfl | simp at hf

theorem State.setSt_sameBut (b : Byte) : s.SameBut (s.setSt b) [.st] := by
  intro f hf
  cases f <;> first | rfl | exact fun _ => rfl | simp at hf

theorem State.report_sameBut (e : Event) : s.SameBut (s.report e) [.event] := by
  intro f hf
  cases f <;> first | rfl | exact fun _ => rfl | simp at hf

theorem State.fullReset_sameBut : s.SameBut (s.fullReset) [.v, .stack, .sp, .pc, .i] := by
  intro f hf
  cases f <;> first | rfl | exact fun _ => rfl | simp at hf

theorem State.countInvalid_sameBut : s.SameBut (s.countInvalid) [.pc, .invalidCount] := by
  intro f hf
  cases f <;> first | rfl | exact fun _ => rfl | simp at hf

theorem State.clearCount_sameBut : s.SameBut (s.clearCount) [.invalidCount] := by
  intro f hf
  cases f <;> first | rfl | exact fun _ => rfl | simp at hf

theorem State.tick_sameBut : s.SameBut (s.tick) [.dt, .st] := by
  intro f hf
  cases f <;> first | rfl | exact fun _ => rfl | simp at hf

theorem State.setRegsFrom0_sameBut (bs : List Byte) : s.SameBut (s.setRegsFrom0 bs) [.v] := by
  intro f hf
  cases f <;> first | rfl | exact fun _ => rfl | simp at hf

theorem State.setFlagThen_sameBut (x : Reg) (flag result : Byte) : s.SameBut (s.setFlagThen x flag result) [.v] := by
  intro f hf
  cases f <;> first | rfl | exact fun _ => rfl | simp at hf

theorem State.paint_sameBut (fb : Framebuffer) (c : Bool) : s.SameBut (s.paint fb c) [.fb, .redraw] := by
  intro f hf
  cases f <;> first | rfl | exact fun _ => rfl | simp at hf

theorem State.finishDraw_sameBut (c : Canvas) : s.SameBut (s.finishDraw c) [.v, .fb, .redraw] := by
  intro f hf
  cases f <;> first | rfl | exact fun _ => rfl | simp at hf

theorem State.fetched_sameBut : s.SameBut (s.fetched) [.pc, .opc, .event] := by
  intro f hf
  cases f <;> first | rfl | exact fun _ => rfl | simp at hf

/-- A run of stores changes memory alone. -/
theorem State.pokeBytes_sameBut (a : Nat) (bs : List Byte) : s.SameBut (s.pokeBytes a bs) [.mem] := by
  rw [State.pokeBytes_eq]
  intro f hf
  cases f <;> first | rfl | simp at hf

/-- A run of stores changes the bytes it stores alone. -/
theorem State.pokeBytes_bytesSameOutside (a : Nat) (bs : List Byte) : s.BytesSameOutside (s.pokeBytes a bs) a bs.length :=
  fun _ h => s.readByte_pokeBytes_outside a bs h

/-- A draw of the random source changes the source alone. -/
theorem State.consumeDraw_sameBut : s.SameBut s.consumeDraw [.draws, .freeDraws] := by
  rw [State.consumeDraw_eq]
  intro f hf
  cases f <;> first | rfl | exact fun _ => rfl | simp at hf

/-- A skip changes PC alone. -/
theorem State.skipIf_sameBut (c : Bool) : s.SameBut (s.skipIf c) [.pc] := by
  rw [State.skipIf_eq]
  intro f hf
  cases f <;> first | rfl | exact fun _ => rfl | simp at hf

/-- The end of a cycle changes the counter and the timers alone. -/
theorem State.endCycle_sameBut : s.SameBut s.endCycle [.invalidCount, .dt, .st] := by
  rw [State.endCycle_eq]
  intro f hf
  cases f <;> first | rfl | exact fun _ => rfl | simp at hf

/-- The full-reset event is a full reset that reports its cause (R345). -/
theorem State.raiseFullReset_fullyReset (cause : Event) : s.FullyReset (s.raiseFullReset cause) [.event] :=
  ⟨fun r => s.reg_fullReset r, fun k => by simp [State.raiseFullReset], rfl, rfl, rfl,
    s.fullReset_sameBut.trans (s.fullReset.report_sameBut cause)⟩

end Sys2Proof.Machine
end

