-- ==== Sys2Proof/Laws/PerInstr.lean ====
section
/-! SUPPORT. Family Row: an instruction is well formed, and its word lies on its own row of the opcode table (R105). -/

namespace Sys2Proof.Laws.Row

/-- The instruction is well formed, and its canonical word has the row's match value under the row's mask. -/
def Statement (i : Instr) : Prop := i.WellFormed ∧ encode i &&& (rowOf i).2 = (rowOf i).1

theorem cls : Statement (.cls) :=
  ⟨trivial, by decide⟩

theorem ret : Statement (.ret) :=
  ⟨trivial, by decide⟩

theorem jp (nnn : Addr) : Statement (.jp nnn) :=
  ⟨addrOperand_toNat nnn, by rw [encode, rowOf, and_mask_f, fieldF_nnn]; rfl⟩

theorem call (nnn : Addr) : Statement (.call nnn) :=
  ⟨addrOperand_toNat nnn, by rw [encode, rowOf, and_mask_f, fieldF_nnn]; rfl⟩

theorem seImm (x : Reg) (kk : Byte) : Statement (.seImm x kk) :=
  ⟨⟨regOperand_toNat x, byteOperand_toNat kk⟩, by rw [encode, rowOf, and_mask_f, fieldF_xkk]; rfl⟩

theorem sneImm (x : Reg) (kk : Byte) : Statement (.sneImm x kk) :=
  ⟨⟨regOperand_toNat x, byteOperand_toNat kk⟩, by rw [encode, rowOf, and_mask_f, fieldF_xkk]; rfl⟩

theorem seReg (x y : Reg) : Statement (.seReg x y) :=
  ⟨⟨regOperand_toNat x, regOperand_toNat y⟩, by rw [encode, rowOf, and_mask_f, fieldF_xyn]; rfl⟩

theorem ldImm (x : Reg) (kk : Byte) : Statement (.ldImm x kk) :=
  ⟨⟨regOperand_toNat x, byteOperand_toNat kk⟩, by rw [encode, rowOf, and_mask_f, fieldF_xkk]; rfl⟩

theorem addImm (x : Reg) (kk : Byte) : Statement (.addImm x kk) :=
  ⟨⟨regOperand_toNat x, byteOperand_toNat kk⟩, by rw [encode, rowOf, and_mask_f, fieldF_xkk]; rfl⟩

theorem ldReg (x y : Reg) : Statement (.ldReg x y) :=
  ⟨⟨regOperand_toNat x, regOperand_toNat y⟩, by rw [encode, rowOf, and_mask_fn, fieldF_xyn, fieldN_xyn]; rfl⟩

theorem or (x y : Reg) : Statement (.or x y) :=
  ⟨⟨regOperand_toNat x, regOperand_toNat y⟩, by rw [encode, rowOf, and_mask_fn, fieldF_xyn, fieldN_xyn]; rfl⟩

theorem and (x y : Reg) : Statement (.and x y) :=
  ⟨⟨regOperand_toNat x, regOperand_toNat y⟩, by rw [encode, rowOf, and_mask_fn, fieldF_xyn, fieldN_xyn]; rfl⟩

theorem xor (x y : Reg) : Statement (.xor x y) :=
  ⟨⟨regOperand_toNat x, regOperand_toNat y⟩, by rw [encode, rowOf, and_mask_fn, fieldF_xyn, fieldN_xyn]; rfl⟩

theorem addReg (x y : Reg) : Statement (.addReg x y) :=
  ⟨⟨regOperand_toNat x, regOperand_toNat y⟩, by rw [encode, rowOf, and_mask_fn, fieldF_xyn, fieldN_xyn]; rfl⟩

theorem sub (x y : Reg) : Statement (.sub x y) :=
  ⟨⟨regOperand_toNat x, regOperand_toNat y⟩, by rw [encode, rowOf, and_mask_fn, fieldF_xyn, fieldN_xyn]; rfl⟩

theorem shr (x y : Reg) : Statement (.shr x y) :=
  ⟨⟨regOperand_toNat x, regOperand_toNat y⟩, by rw [encode, rowOf, and_mask_fn, fieldF_xyn, fieldN_xyn]; rfl⟩

theorem subn (x y : Reg) : Statement (.subn x y) :=
  ⟨⟨regOperand_toNat x, regOperand_toNat y⟩, by rw [encode, rowOf, and_mask_fn, fieldF_xyn, fieldN_xyn]; rfl⟩

theorem shl (x y : Reg) : Statement (.shl x y) :=
  ⟨⟨regOperand_toNat x, regOperand_toNat y⟩, by rw [encode, rowOf, and_mask_fn, fieldF_xyn, fieldN_xyn]; rfl⟩

theorem sneReg (x y : Reg) : Statement (.sneReg x y) :=
  ⟨⟨regOperand_toNat x, regOperand_toNat y⟩, by rw [encode, rowOf, and_mask_f, fieldF_xyn]; rfl⟩

theorem ldI (nnn : Addr) : Statement (.ldI nnn) :=
  ⟨addrOperand_toNat nnn, by rw [encode, rowOf, and_mask_f, fieldF_nnn]; rfl⟩

theorem jpV0 (nnn : Addr) : Statement (.jpV0 nnn) :=
  ⟨addrOperand_toNat nnn, by rw [encode, rowOf, and_mask_f, fieldF_nnn]; rfl⟩

theorem rnd (x : Reg) (kk : Byte) : Statement (.rnd x kk) :=
  ⟨⟨regOperand_toNat x, byteOperand_toNat kk⟩, by rw [encode, rowOf, and_mask_f, fieldF_xkk]; rfl⟩

theorem drw (x y : Reg) (n : Nibble) : Statement (.drw x y n) :=
  ⟨⟨regOperand_toNat x, regOperand_toNat y, nibbleOperand_toNat n⟩, by rw [encode, rowOf, and_mask_f, fieldF_xyn]; rfl⟩

theorem skp (x : Reg) : Statement (.skp x) :=
  ⟨regOperand_toNat x, by rw [encode, rowOf, and_mask_fn, fieldF_xkk, fieldN_xkk]; rfl⟩

theorem sknp (x : Reg) : Statement (.sknp x) :=
  ⟨regOperand_toNat x, by rw [encode, rowOf, and_mask_fn, fieldF_xkk, fieldN_xkk]; rfl⟩

theorem ldVxDt (x : Reg) : Statement (.ldVxDt x) :=
  ⟨regOperand_toNat x, by rw [encode, rowOf, and_mask_fkk, fieldF_xkk, fieldKK_xkk]; rfl⟩

theorem ldVxK (x : Reg) : Statement (.ldVxK x) :=
  ⟨regOperand_toNat x, by rw [encode, rowOf, and_mask_fkk, fieldF_xkk, fieldKK_xkk]; rfl⟩

theorem ldDtVx (x : Reg) : Statement (.ldDtVx x) :=
  ⟨regOperand_toNat x, by rw [encode, rowOf, and_mask_fkk, fieldF_xkk, fieldKK_xkk]; rfl⟩

theorem ldStVx (x : Reg) : Statement (.ldStVx x) :=
  ⟨regOperand_toNat x, by rw [encode, rowOf, and_mask_fkk, fieldF_xkk, fieldKK_xkk]; rfl⟩

theorem addIVx (x : Reg) : Statement (.addIVx x) :=
  ⟨regOperand_toNat x, by rw [encode, rowOf, and_mask_fkk, fieldF_xkk, fieldKK_xkk]; rfl⟩

theorem ldFVx (x : Reg) : Statement (.ldFVx x) :=
  ⟨regOperand_toNat x, by rw [encode, rowOf, and_mask_fkk, fieldF_xkk, fieldKK_xkk]; rfl⟩

theorem ldBVx (x : Reg) : Statement (.ldBVx x) :=
  ⟨regOperand_toNat x, by rw [encode, rowOf, and_mask_fkk, fieldF_xkk, fieldKK_xkk]; rfl⟩

theorem ldMemVx (x : Reg) : Statement (.ldMemVx x) :=
  ⟨regOperand_toNat x, by rw [encode, rowOf, and_mask_fkk, fieldF_xkk, fieldKK_xkk]; rfl⟩

theorem ldVxMem (x : Reg) : Statement (.ldVxMem x) :=
  ⟨regOperand_toNat x, by rw [encode, rowOf, and_mask_fkk, fieldF_xkk, fieldKK_xkk]; rfl⟩

end Sys2Proof.Laws.Row
end

