-- ==== Sys2Proof/Tests/Slice0.lean ====
section
/-! SUPPORT. The model's own tests. Every expected value is the spec's: a word or a vector of 95_test_vectors.md (its id in the
comment), or an example of the rule named. -/

namespace Sys2Proof.Tests

open Sys2Proof.Machine

/-- One step on the word `w` placed where `s` fetches, and a check of the state after it. -/
def after (s : State) (w : Nat) (p : State → Bool) : Bool :=
  match step (s.withFetchWord 16 w) with
  | .next t => p t
  | _ => false

/-- The state after construction. -/
abbrev s0 : State := State.reset

/-! ### Well-formedness: each operand check refuses the first number past its field (R102) -/

theorem test_wellFormed_register_refused : regOperand 16 = none ∧ regOperand 15 = some 0xF := by decide
theorem test_wellFormed_byte_refused : byteOperand 256 = none ∧ byteOperand 255 = some 0xFF := by decide
theorem test_wellFormed_address_refused : addrOperand 4096 = none ∧ addrOperand 4095 = some 0xFFF := by decide
theorem test_wellFormed_height_refused : nibbleOperand 16 = none ∧ nibbleOperand 15 = some 0xF := by decide
theorem test_wellFormed_drw : (Instr.drw 1 2 15).WellFormed := by decide

/-! ### Decoding: a word of every row, its bits written out from R101 and R105 -/

theorem test_decode_cls : decode 0b0000000011100000#16 = .instr .cls := by decide
theorem test_decode_ret : decode 0b0000000011101110#16 = .instr .ret := by decide
theorem test_decode_jp : decode 0b0001010000000011#16 = .instr (.jp 0x403) := by decide
theorem test_decode_call : decode 0b0010001100000001#16 = .instr (.call 0x301) := by decide
theorem test_decode_seImm : decode 0b0011001101000010#16 = .instr (.seImm 3 0x42) := by decide
theorem test_decode_sneImm : decode 0b0100001101000010#16 = .instr (.sneImm 3 0x42) := by decide
theorem test_decode_seReg : decode 0b0101000100100000#16 = .instr (.seReg 1 2) := by decide
theorem test_decode_ldImm : decode 0b0110101010011100#16 = .instr (.ldImm 10 0x9C) := by decide
theorem test_decode_addImm : decode 0b0111000100000011#16 = .instr (.addImm 1 3) := by decide
theorem test_decode_ldReg : decode 0b1000000100100000#16 = .instr (.ldReg 1 2) := by decide
theorem test_decode_or : decode 0b1000000100100001#16 = .instr (.or 1 2) := by decide
theorem test_decode_and : decode 0b1000000100100010#16 = .instr (.and 1 2) := by decide
theorem test_decode_xor : decode 0b1000000100100011#16 = .instr (.xor 1 2) := by decide
theorem test_decode_addReg : decode 0b1000000100100100#16 = .instr (.addReg 1 2) := by decide
theorem test_decode_sub : decode 0b1000000100100101#16 = .instr (.sub 1 2) := by decide
theorem test_decode_shr : decode 0b1000000100100110#16 = .instr (.shr 1 2) := by decide
theorem test_decode_subn : decode 0b1000000100100111#16 = .instr (.subn 1 2) := by decide
theorem test_decode_shl : decode 0b1000000100101110#16 = .instr (.shl 1 2) := by decide
theorem test_decode_sneReg : decode 0b1001000100100000#16 = .instr (.sneReg 1 2) := by decide
theorem test_decode_ldI : decode 0b1010001100000001#16 = .instr (.ldI 0x301) := by decide
theorem test_decode_jpV0 : decode 0b1011001100000001#16 = .instr (.jpV0 0x301) := by decide
theorem test_decode_rnd : decode 0b1100001100001111#16 = .instr (.rnd 3 0x0F) := by decide
theorem test_decode_drw : decode 0b1101000100100101#16 = .instr (.drw 1 2 5) := by decide
theorem test_decode_skp : decode 0b1110001010011110#16 = .instr (.skp 2) := by decide
theorem test_decode_sknp : decode 0b1110001010100001#16 = .instr (.sknp 2) := by decide
theorem test_decode_ldVxDt : decode 0b1111000100000111#16 = .instr (.ldVxDt 1) := by decide
theorem test_decode_ldVxK : decode 0b1111010100001010#16 = .instr (.ldVxK 5) := by decide
theorem test_decode_ldDtVx : decode 0b1111010000010101#16 = .instr (.ldDtVx 4) := by decide
theorem test_decode_ldStVx : decode 0b1111001000011000#16 = .instr (.ldStVx 2) := by decide
theorem test_decode_addIVx : decode 0b1111010000011110#16 = .instr (.addIVx 4) := by decide
theorem test_decode_ldFVx : decode 0b1111000100101001#16 = .instr (.ldFVx 1) := by decide
theorem test_decode_ldBVx : decode 0b1111101000110011#16 = .instr (.ldBVx 10) := by decide
theorem test_decode_ldMemVx : decode 0b1111000101010101#16 = .instr (.ldMemVx 1) := by decide
theorem test_decode_ldVxMem : decode 0b1111001001100101#16 = .instr (.ldVxMem 2) := by decide

/-- Ignored bits are not examined (R106, R108, R110; V-DC-3 to V-DC-6). -/
theorem test_decode_ignored_bits :
    decode 0x0000 = .instr .cls ∧ decode 0x0FF0 = .instr .cls ∧ decode 0x01EE = .instr .ret ∧
    decode 0x5121 = .instr (.seReg 1 2) ∧ decode 0xE231 = .instr (.sknp 2) ∧ decode 0xE30E = .instr (.skp 3) := by decide

/-- Invalid words by reason (R111; V-DC-1, V-DC-7 to V-DC-9). -/
theorem test_decode_invalid :
    decode 0x0123 = .invalid .selector ∧ decode 0x8008 = .invalid .selector ∧ decode 0xE300 = .invalid .selector ∧
    decode 0xF064 = .invalid .selector ∧ decode 0xF066 = .invalid .fRange ∧ decode 0xF0FF = .invalid .fRange := by decide

/-- The encoder's canonical words (R115). -/
theorem test_encode_canonical :
    encode .cls = 0x00E0 ∧ encode .ret = 0x00EE ∧ encode (.skp 2) = 0xE29E ∧ encode (.sknp 2) = 0xE2A1 ∧
    encode (.shl 1 0) = 0x810E ∧ encode (.drw 0 1 1) = 0xD011 := by decide

theorem test_decodeTableWord : decodeTableWord 16 0x6A9C = some (.ldImm 10 0x9C) ∧ decodeTableWord 16 0xFFFF = none := by decide

/-! ### The cycle and the events (40_cycle.md, 60_exceptions.md) -/

/-- V-DC-1: the timers do not run in an invalid-opcode cycle. -/
theorem test_invalid_opcode :
    after { s0 with dt := 9 } 0x0123 (fun t => t.pc == 0x200 && t.invalidCount == 1 && t.event == .invalidOpcode && t.dt == 9)
      = true := by decide

/-- E8: the eleventh invalid word escalates. -/
theorem test_invalid_escalation :
    after { s0.setReg 3 7 with invalidCount := 10, i := 0x123 } 0xFFFF
      (fun t => t.pc == 0x200 && t.invalidCount == 0 && t.event == .invalidEscalation && t.reg 3 == 0 && t.i == 0) = true := by
  decide

/-- V-DC-10: check (b) stands before check (c). -/
theorem test_check_b_first :
    after { s0 with sp := 16 } 0xF066 (fun t => t.event == .invalidOpcode && t.sp == 16 && t.invalidCount == 1) = true := by
  decide

/-- V-DC-11: check (c) stands before the dispatch, and the timers do not run. -/
theorem test_check_c :
    after { s0 with sp := 16, dt := 9 } 0xF064
      (fun t => t.event == .stackOverflow && t.sp == 0 && t.pc == 0x200 && t.invalidCount == 0 && t.dt == 9) = true := by decide

/-- V-DC-12, V-DC-13: the clamp at both ends. -/
theorem test_clamp_high : after { s0 with pc := 0x1000 } 0x6A9C (fun t => t.pc == 0x1000 && t.opc == 0x6A9C) = true := by decide
theorem test_clamp_low : after { s0 with pc := 0x110 } 0x6A9C (fun t => t.pc == 0x202 && t.reg 10 == 0x9C) = true := by decide

/-- P5c: with the parameter true, a valid instruction clears the counter; with the default it does not (R151). -/
theorem test_counter_parameter :
    after { s0 with invalidCount := 4, params := { Config.defaultParams with invalidCountClearsOnValid := true } } 0x6A01
      (fun t => t.invalidCount == 0) = true ∧
    after { s0 with invalidCount := 4 } 0x6A01 (fun t => t.invalidCount == 4) = true := by decide

/-! ### Control flow (V-CF) -/

/-- V-CF-2, V-CF-4. -/
theorem test_jp_odd_target : after { s0 with pc := 0x300 } 0x1FFD (fun t => t.pc == 0xFFD && t.event == .none) = true := by decide
theorem test_jp_rejected :
    after { s0 with pc := 0x300 } 0x1FFE (fun t => t.pc == 0x302 && t.event == .jumpRejected) = true := by decide

/-- V-CF-6, and CALL at SP = 15 fills the stack (R172). -/
theorem test_call :
    after { s0 with pc := 0x204 } 0x2300 (fun t => t.pc == 0x300 && t.sp == 1 && t.stack[0] == 0x206) = true := by decide
theorem test_call_fills_stack :
    after { s0 with sp := 15 } 0x2300 (fun t => t.sp == 16 && t.stack[15] == 0x202) = true := by decide

/-- V-CF-7, V-CF-8. -/
theorem test_ret :
    after { s0 with sp := 1, stack := s0.stack.set 0 0x206 } 0x00EE
      (fun t => t.sp == 0 && t.pc == 0x206 && t.stack[0] == 0x206) = true := by decide
theorem test_ret_underflow :
    after { s0.setReg 3 5 with i := 0x300, dt := 5 } 0x00EE
      (fun t => t.reg 3 == 0 && t.i == 0 && t.pc == 0x200 && t.dt == 4 && t.event == .stackUnderflow) = true := by decide

/-- V-CF-9, V-CF-10. -/
theorem test_jpV0 : after (s0.setReg 0 0x10) 0xB100 (fun t => t.pc == 0x110) = true := by decide
theorem test_jpV0_no_wrap : after (s0.setReg 0 0xFF) 0xBFFF (fun t => t.pc == 0x10FE) = true := by decide

/-- V-CF-11 to V-CF-14. -/
theorem test_seImm_past_end : after { s0 with pc := 0xFFE } 0x3000 (fun t => t.pc == 0x1002) = true := by decide
theorem test_sneImm : after (s0.setReg 1 0x42) 0x4142 (fun t => t.pc == 0x202) = true := by decide
theorem test_seReg : after ((s0.setReg 1 1).setReg 2 2) 0x5120 (fun t => t.pc == 0x202) = true := by decide
theorem test_sneReg : after ((s0.setReg 1 1).setReg 2 2) 0x9120 (fun t => t.pc == 0x204) = true := by decide

/-! ### Arithmetic and logic (V-AL) -/

theorem test_ldImm : after s0 0x6A9C (fun t => t.reg 0xA == 0x9C && t.pc == 0x202) = true := by decide
/-- V-AL-2. -/
theorem test_addImm_no_flag :
    after ((s0.setReg 1 2).setReg 15 0x55) 0x71FF (fun t => t.reg 1 == 1 && t.reg 15 == 0x55) = true := by decide
/-- V-AL-6, V-AL-3, V-AL-4, V-AL-5. -/
theorem test_ldReg : after ((s0.setReg 1 0x12).setReg 2 0x34) 0x8120 (fun t => t.reg 1 == 0x34) = true := by decide
theorem test_or :
    after (((s0.setReg 1 0x0F).setReg 2 0xF0).setReg 15 0x55) 0x8121 (fun t => t.reg 1 == 0xFF && t.reg 15 == 0x55) = true := by
  decide
theorem test_and : after ((s0.setReg 1 0xF0).setReg 2 0x3C) 0x8122 (fun t => t.reg 1 == 0x30) = true := by decide
theorem test_xor : after (s0.setReg 1 0x5A) 0x8113 (fun t => t.reg 1 == 0) = true := by decide
/-- E1, V-AL-9. -/
theorem test_addReg :
    after ((s0.setReg 1 0xC8).setReg 2 0x64) 0x8124 (fun t => t.reg 1 == 0x2C && t.reg 15 == 1) = true := by decide
theorem test_addReg_into_flag : after ((s0.setReg 15 0x10).setReg 1 0x20) 0x8F14 (fun t => t.reg 15 == 0x30) = true := by decide
/-- V-AL-10, V-AL-11. -/
theorem test_sub_equal : after ((s0.setReg 1 5).setReg 2 5) 0x8125 (fun t => t.reg 1 == 0 && t.reg 15 == 1) = true := by decide
theorem test_sub_old_flag :
    after ((s0.setReg 1 0x10).setReg 15 1) 0x81F5 (fun t => t.reg 1 == 0x0F && t.reg 15 == 1) = true := by decide
/-- V-AL-13, V-AL-14. -/
theorem test_subn_borrow : after ((s0.setReg 1 5).setReg 2 3) 0x8127 (fun t => t.reg 1 == 0xFE && t.reg 15 == 0) = true := by decide
theorem test_subn : after ((s0.setReg 1 3).setReg 2 5) 0x8127 (fun t => t.reg 1 == 2 && t.reg 15 == 1) = true := by decide
/-- V-AL-15, V-AL-17. -/
theorem test_shr :
    after ((s0.setReg 1 0x81).setReg 2 0xFF) 0x8126 (fun t => t.reg 1 == 0x40 && t.reg 15 == 1 && t.reg 2 == 0xFF) = true := by
  decide
theorem test_shr_flag_register : after (s0.setReg 15 2) 0x8F06 (fun t => t.reg 15 == 1) = true := by decide
/-- V-AL-16, V-AL-18. -/
theorem test_shl : after (s0.setReg 1 0x81) 0x812E (fun t => t.reg 1 == 2 && t.reg 15 == 1) = true := by decide
theorem test_shl_flag_register : after (s0.setReg 15 0x40) 0x8F0E (fun t => t.reg 15 == 0x80) = true := by decide

/-! ### Random (V-RN) -/

/-- V-RN-1: the draw is the host's byte, and it is consumed. -/
theorem test_rnd : after { s0 with draws := [0xA7, 1] } 0xC30F (fun t => t.reg 3 == 7 && t.draws == [1]) = true := by decide

/-! ### Display (V-DR) -/

/-- V-DR-1. -/
theorem test_cls :
    after { s0 with fb := Vector.replicate 32 (Vector.replicate 64 1) } 0x00E0
      (fun t => pixelAt t.fb 63 31 == 0 && pixelAt t.fb 0 0 == 0 && t.redraw) = true := by decide

/-- V-DR-2. -/
theorem test_drw_out_of_bounds :
    after { s0.setReg 15 7 with i := 0xFFF } 0xD012 (fun t => t.event == .drawOob && t.reg 15 == 7 && !t.redraw) = true := by
  decide

/-- E7: the first draw paints four pixels and leaves VF at 0. -/
theorem test_drw_clips :
    after { (s0.setReg 0 60).pokeByte 0x300 0xFF with i := 0x300 } 0xD011
      (fun t => (t.fb[0].toList.drop 60 == [1, 1, 1, 1]) && pixelAt t.fb 0 0 == 0 && t.reg 15 == 0 && t.redraw) = true := by decide

/-- V-DR-7: glyph 0 of the construction font, row 1 (10010000), bit 7 leftmost. -/
theorem test_drw_glyph :
    after { s0 with i := 0x50 } 0xD015 (fun t => t.fb[1].toList.take 8 == [1, 0, 0, 1, 0, 0, 0, 0]) = true := by decide

/-! ### Keys (V-KY) -/

/-- V-KY-1, V-KY-3. -/
theorem test_skp : after { s0.setReg 1 3 with keys := s0.keys.set 3 true } 0xE19E (fun t => t.pc == 0x204) = true := by decide
theorem test_skp_no_such_key :
    after { s0.setReg 1 16 with keys := Vector.replicate 16 true } 0xE19E (fun t => t.pc == 0x202) = true := by decide
/-- V-KY-4, and R282's example. -/
theorem test_sknp_no_such_key :
    after { s0.setReg 1 16 with keys := Vector.replicate 16 true } 0xE1A1 (fun t => t.pc == 0x204) = true := by decide
theorem test_sknp_down :
    after { s0.setReg 2 7 with keys := s0.keys.set 7 true } 0xE2A1 (fun t => t.pc == 0x202) = true := by decide
/-- V-KY-5, V-KY-6. -/
theorem test_ldVxK_lowest :
    after { s0 with keys := (s0.keys.set 9 true).set 4 true } 0xF50A (fun t => t.reg 5 == 4 && t.pc == 0x202) = true := by decide
theorem test_ldVxK_waits :
    after { s0 with dt := 3 } 0xF50A (fun t => t.pc == 0x200 && t.dt == 2 && t.event == .keyWait) = true := by decide

/-! ### Index, memory and timers (V-MT) -/

/-- V-MT-1. -/
theorem test_ldI : after { s0 with i := 5 } 0xA000 (fun t => t.i == 0) = true := by decide
/-- V-MT-2 to V-MT-5. -/
theorem test_ldVxDt : after { s0 with dt := 5 } 0xF107 (fun t => t.reg 1 == 5 && t.dt == 4) = true := by decide
theorem test_ldDtVx : after (s0.setReg 0 0x3C) 0xF015 (fun t => t.dt == 0x3B) = true := by decide
theorem test_ldDtVx_floor : after s0 0xF015 (fun t => t.dt == 0) = true := by decide
theorem test_ldStVx : after (s0.setReg 2 2) 0xF218 (fun t => t.st == 1) = true := by decide
/-- V-MT-6, V-MT-8. -/
theorem test_addIVx_saturates : after { s0.setReg 1 0x20 with i := 0xFF0 } 0xF11E (fun t => t.i == 0xFFF) = true := by decide
theorem test_addIVx_raised : after { s0 with i := 0x10 } 0xF11E (fun t => t.i == 0x50) = true := by decide
/-- V-MT-9. -/
theorem test_ldFVx : after (s0.setReg 0 0x1A) 0xF029 (fun t => t.i == 0x82) = true := by decide
/-- V-MT-10, V-MT-11. -/
theorem test_ldBVx :
    after { s0.setReg 1 254 with i := 0xFFD } 0xF133
      (fun t => t.readByte 0xFFD == 2 && t.readByte 0xFFE == 5 && t.readByte 0xFFF == 4) = true := by decide
theorem test_ldBVx_out_of_bounds :
    after { s0.setReg 1 254 with i := 0xFFE } 0xF133 (fun t => t.event == .bcdOob && t.readByte 0xFFE == 0) = true := by decide
/-- V-MT-13, V-MT-14. -/
theorem test_ldMemVx_top :
    after { (s0.setReg 0 9).setReg 15 0xAA with i := 0xFF0 } 0xFF55
      (fun t => t.readByte 0xFF0 == 9 && t.readByte 0xFFF == 0xAA && t.i == 0xFF0) = true := by decide
theorem test_ldMemVx_out_of_bounds :
    after { s0.setReg 0 9 with i := 0xFF1 } 0xFF55 (fun t => t.event == .blockOob && t.readByte 0xFF1 == 0) = true := by decide
/-- R308's example, and V-MT-15. -/
theorem test_ldVxMem :
    after { s0.pokeBytes 0x300 [1, 5, 6, 7] with i := 0x300 } 0xF265
      (fun t => t.reg 0 == 1 && t.reg 1 == 5 && t.reg 2 == 6 && t.reg 3 == 0) = true := by decide
theorem test_ldVxMem_out_of_bounds :
    after { s0.setReg 0 9 with i := 0xFF1 } 0xFF65 (fun t => t.event == .blockOob && t.reg 0 == 9) = true := by decide

/-! ### Memory and the host's transactions -/

/-- Writing what an unlisted cell reads as removes the entry, in the glyph table too (R52: glyph 0 begins with F0). -/
theorem test_memory_canonical : ((s0.pokeByte 0x50 1).pokeByte 0x50 0xF0).mem = [] ∧ (s0.pokeByte 0x600 0).mem = [] := by decide

/-- V-RS-2: a short LOAD keeps the bytes past the image. -/
theorem test_load_keeps_tail :
    let t := (s0.pokeBytes 0x200 [0x11, 0x22, 0x33, 0x44]).load [0xAA, 0xBB]
    t.readByte 0x200 = 0xAA ∧ t.readByte 0x201 = 0xBB ∧ t.readByte 0x202 = 0x33 := by decide

/-- E4: an empty image is refused and changes nothing. -/
theorem test_load_empty : loadStatus [] = .empty ∧ s0.load [] = s0 := by decide

/-- V-RS-3: RESET keeps the timers, REDRAW and the counter. -/
theorem test_reset_transaction :
    let s := { s0.setReg 5 1 with i := 0x300, sp := 2, dt := 9, redraw := true, invalidCount := 4 }
    s.fullReset.reg 5 = 0 ∧ s.fullReset.i = 0 ∧ s.fullReset.sp = 0 ∧ s.fullReset.pc = 0x200 ∧ s.fullReset.dt = 9 ∧
      s.fullReset.redraw = true ∧ s.fullReset.invalidCount = 4 := by decide

/-! ### The statements' hypotheses can be met: for each statement that has some, a state and operands that meet them all together, at
the ends of their ranges -/

/-- `s` with the word `w` where it fetches. -/
abbrev holding (s : State) (w : Nat) : State := s.withFetchWord 16 w

/-- A legal state at the ends of its ranges. -/
def edge : State :=
  { s0 with pc := 0x10FE, i := 0xFFF, sp := 15, stack := s0.stack.set 15 0x1000, invalidCount := 10, mem := [(0xFFF, 1)] }

theorem edge_legal : edge.Legal := by
  refine ⟨by decide, by decide, by decide, by decide, fun x y => .inl ?_, by decide⟩
  show pixelAt blankFb x y = 0
  simp [pixelAt, blankFb]

theorem test_hyp_DecodeThenEncodeGivesTheWordBack : decode 0x0FF0 = .instr .cls := by decide
theorem test_hyp_WordsDecodeByTheirRow :
    decode 0xE231 = .instr (.sknp 2) ∧ rowOf .cls ∈ opcodeRows ∧ (0x0FF0#16 &&& (rowOf .cls).2 = (rowOf .cls).1) ∧
    (∃ why, decode 0xF064 = .invalid why) ∧ decode 0xF066 = .invalid .fRange ∧ (fieldKK 0xF066).toNat = 0x66 := by
  exact ⟨by decide, by decide, by decide, ⟨_, rfl⟩, by decide, by decide⟩
theorem test_hyp_FetchReadsTwoBytesHighFirst : ({ s0 with pc := 0xFFE } : State).pc.toNat ≤ 0xFFE := by decide
theorem test_hyp_StepRunsTheDecodedInstruction :
    let s := holding edge 0x0FFE
    decodeBytes (s.readByte s.fetchAddr) (s.readByte (s.fetchAddr + 1)) = .instr .ret ∧ s.sp.val < 16 := by decide
theorem test_hyp_TimersTickAfterEachInstruction :
    (holding s0 0xF015).Dispatches (.ldDtVx 0) ∧ ∃ u, exec (.ldDtVx 0) (holding s0 0xF015).fetched = .next u :=
  ⟨⟨by decide, by decide⟩, ⟨_, rfl⟩⟩
theorem test_hyp_EleventhInvalidWordResets :
    let s (n : Nat) (w : Nat) := holding { s0 with invalidCount := n } w
    (s 9 0xF066).RaisesInvalid ∧ (s 10 0xF066).RaisesInvalid ∧ (s 9 0x8008).RaisesInvalid ∧ (s 10 0x8008).RaisesInvalid :=
  ⟨.inl (by decide), .inl (by decide), .inr ⟨by decide, by decide⟩, .inr ⟨by decide, by decide⟩⟩
theorem test_hyp_InvalidWordRestartsAndCounts :
    let s := holding { s0 with invalidCount := 9, sp := 16 } 0xF066
    s.RaisesInvalid ∧ s.invalidCount < 10 := ⟨.inl (by decide), by decide⟩
theorem test_hyp_FullStackResetsBeforeDispatch :
    let s := holding { s0 with sp := 16 } 0xF064
    s.sp.val = 16 ∧ decode s.fetchedWord ≠ .invalid .fRange := by decide
theorem test_hyp_SelectorRangeIsCheckedBeforeTheStack :
    let s := holding { s0 with sp := 16, invalidCount := 9 } 0xF066
    fieldF s.fetchedWord = 0xF#4 ∧ 0x65 < (fieldKK s.fetchedWord).toNat ∧ s.invalidCount < 10 := by decide
theorem test_hyp_InvalidWordAtEntryEscalatesEveryElevenCycles :
    let s := holding { s0 with sp := 15 } 0x0123
    s.pc = 0x200 ∧ s.sp.val < 16 ∧ s.invalidCount = 0 ∧ ∃ why, decode s.fetchedWord = .invalid why :=
  ⟨by decide, by decide, by decide, ⟨.selector, by decide⟩⟩
theorem test_hyp_JumpToSelfOnlyRunsTheTimers :
    let s := holding { s0 with pc := 0xFFD, sp := 15, dt := 2 } 0x1FFD
    s.pc.toNat = (0xFFD#12 : Addr).toNat ∧ s.sp.val < 16 ∧ decode s.fetchedWord = .instr (.jp 0xFFD) ∧
    (let r := holding s0 0x1200; r.pc.toNat = (0x200#12 : Addr).toNat ∧ decode r.fetchedWord = .instr (.jp 0x200)) := by decide
theorem test_hyp_ConstructionValues : (0x04F < 0x050 ∨ 0x0A0 ≤ 0x04F) ∧ (0x0A0 < 0x050 ∨ 0x0A0 ≤ 0x0A0) := by decide
theorem test_hyp_LoadCopiesTheImage :
    3583 < (List.replicate 3584 (0 : Byte)).length ∧ loadStatus (List.replicate 3584 0) = .ok ∧
    loadStatus (List.replicate 3585 0) = .truncated ∧ loadStatus [] = .empty := by
  simp only [loadStatus, List.length_replicate]; decide
theorem test_hyp_ReadFbGivesThePixelsRowMajor : 63 < 64 ∧ 31 < 32 ∧ pixelAt (togglePixel 63 31 ⟨blankFb, false, false⟩).fb 63 31 = 1 := by
  decide
theorem test_hyp_StepKeepsTheLegalRanges : edge.Legal ∧ ∃ t, step edge = .next t := ⟨edge_legal, ⟨_, rfl⟩⟩
theorem test_hyp_TransactionsKeepTheLegalRanges :
    edge.Legal ∧ ∃ t r, transact (.load [0x00, 0xE0]) edge = .next (t, r) := ⟨edge_legal, ⟨_, _, rfl⟩⟩
theorem test_hyp_OnlyIndexedJumpsLeavePcPastTheEnd :
    let s := { edge with v := s0.v.set 0 0xFF, mem := [(0xFFE, 0xBF), (0xFFF, 0xFF)] }
    s.Legal ∧ ∃ t, step s = .next t ∧ 0x1002 < t.pc.toNat :=
  ⟨{ edge_legal with mem_wf := by decide }, _, rfl, by decide⟩
theorem test_hyp_OnlyClsAndDrwWriteTheDisplay :
    (∃ t, step (holding s0 0x00E0) = .next t ∧ t.redraw ≠ (holding s0 0x00E0).redraw) ∧
    (let s := holding { s0 with i := 0x50 } 0xD015; ∃ t, step s = .next t ∧ t.fb ≠ s.fb) :=
  ⟨⟨_, rfl, by decide⟩, ⟨_, rfl, by decide⟩⟩
theorem test_hyp_OnlyStoresWriteMemory :
    (let s := holding { s0.setReg 1 1 with i := 0xFFD } 0xF133; ∃ t, step s = .next t ∧ t.readByte 0xFFF ≠ s.readByte 0xFFF) ∧
    (let s := holding { s0.setReg 15 1 with i := 0xFF0 } 0xFF55; ∃ t, step s = .next t ∧ t.readByte 0xFFF ≠ s.readByte 0xFFF) :=
  ⟨⟨_, rfl, by decide⟩, ⟨_, rfl, by decide⟩⟩
theorem test_hyp_OnlyIndexInstructionsAndResetsWriteI :
    let moves (s : State) (w : Nat) := ∃ t, step (holding s w) = .next t ∧ t.i ≠ (holding s w).i
    moves s0 0xA001 ∧ moves s0 0xF01E ∧ moves s0 0xF029 ∧ moves { s0 with i := 1 } 0x00EE ∧
    moves { s0 with i := 1, sp := 16 } 0x00EE ∧ moves { s0 with i := 1, invalidCount := 10 } 0xFFFF :=
  ⟨⟨_, rfl, by decide⟩, ⟨_, rfl, by decide⟩, ⟨_, rfl, by decide⟩, ⟨_, rfl, by decide⟩, ⟨_, rfl, by decide⟩, ⟨_, rfl, by decide⟩⟩
theorem test_hyp_CoreNeverWritesTheHostsState :
    let s := { s0 with redraw := true }
    s.redraw = true ∧ ∃ t, step s = .next t := ⟨rfl, ⟨_, rfl⟩⟩
theorem test_hyp_ValidInstructionsRaiseNoInvalidEvent :
    ∃ t, exec (.jp 0xFFE) s0 = .next t ∧ t.event ≠ s0.event := ⟨_, rfl, by decide⟩
theorem test_hyp_OutputsDoNotFeedBack : ∃ t, step { s0 with st := 3 } = .next t := ⟨_, rfl⟩
theorem test_hyp_OnlyRndUsesTheRandomSource :
    let s := holding { s0 with draws := [1] } 0x00E0
    (∀ x kk, ¬s.Dispatches (.rnd x kk)) ∧ ∃ t, step s = .next t := by
  refine ⟨fun x kk h => ?_, ⟨_, rfl⟩⟩
  have hd : decode (holding { s0 with draws := [1] } 0x00E0).fetchedWord = .instr .cls := by decide
  exact absurd (hd.symm.trans h.1) (by simp)
theorem test_hyp_JpTakesOnlyTargetsInRange :
    fieldF 0x1FFD = 0x1#4 ∧ fieldNNN 0x1FFD = 0xFFD#12 ∧ (0x200#12).toNat = 0x200 ∧ ¬(0xFFE#12).toNat < 0xFFE ∧
    ¬0x200 ≤ (0x1FF#12).toNat := by decide
theorem test_hyp_CallPushesAndJumps :
    ({ s0 with sp := 15 } : State).sp.val < 16 ∧ ({ s0 with sp := 16 } : State).sp.val = 16 ∧
    ∀ k : Fin 16, k.val = 0 → k.val ≠ ({ s0 with sp := 15 } : State).sp.val := by decide
theorem test_hyp_RetPopsOrResets :
    0 < ({ s0 with sp := 1 } : State).sp.val ∧ 0 < ({ s0 with sp := 16 } : State).sp.val ∧ s0.sp.val = 0 := by decide
theorem test_hyp_RetReturnsToTheCaller :
    ({ s0 with sp := 15 } : State).sp.val < 16 ∧ (14 : Fin 16).val ≠ ({ s0 with sp := 15 } : State).sp.val ∧ s0.sp.val < 16 ∧
    (1 : Fin 16).val ≠ s0.sp.val := by decide
theorem test_hyp_RegisterSkips :
    fieldF 0x512F = 0x5#4 ∧ fieldX 0x512F = 1#4 ∧ fieldY 0x512F = 2#4 ∧
    fieldF 0x912F = 0x9#4 ∧ fieldX 0x912F = 1#4 ∧ fieldY 0x912F = 2#4 := by decide
theorem test_hyp_RegisterMove :
    fieldF 0x8120 = 0x8#4 ∧ fieldN 0x8120 = 0x0#4 ∧ fieldX 0x8120 = 1#4 ∧ fieldY 0x8120 = 2#4 := by decide
theorem test_hyp_AddSetsCarryThenResult :
    fieldF 0x8124 = 0x8#4 ∧ fieldN 0x8124 = 0x4#4 ∧ fieldX 0x8124 = 1#4 ∧ fieldY 0x8124 = 2#4 ∧ (1#4 : Reg) ≠ VF := by decide
theorem test_hyp_SubtractSetsNoBorrowThenResult : (14#4 : Reg) ≠ VF := by decide
theorem test_hyp_ShiftsMoveOneBitIntoTheFlag : (0#4 : Reg) ≠ VF := by decide
theorem test_hyp_RndMasksOneDraw :
    ({ s0 with draws := [0xA7] } : State).draws = [0xA7] ∧ s0.draws = [] ∧ (0x0F#8).getLsbD 4 = false := by decide
theorem test_hyp_DrawFlipsExactlyTheSpritePixels :
    let s := { s0 with i := 4081, mem := [(4095, 0x80)] }
    s.i.toNat + (15#4 : Nibble).toNat ≤ 4096 ∧ s.SpriteSets 0 0 15 0 14 ∧ ¬s.SpriteSets 0 0 15 1 14 := by
  unfold State.SpriteSets; decide
theorem test_hyp_DrawingTwiceRestoresTheFrame :
    let s := { s0 with i := 4095, mem := [(4095, 0x80)] }
    s.i.toNat + (1#4 : Nibble).toNat ≤ 4096 ∧ ∃ t, exec (.drw 0 1 1) s = .next t ∧
      ∃ u, exec (.drw 0 1 1) { t with v := s.v } = .next u := ⟨by decide, _, rfl, _, rfl⟩
theorem test_hyp_KeySkips :
    let s := { (s0.setReg 1 15).setReg 2 16 with keys := s0.keys.set 15 true }
    (if h : (s.reg 1).toNat < 16 then true = s.keys[(s.reg 1).toNat] else true = false) ∧
    (if h : (s.reg 2).toNat < 16 then false = s.keys[(s.reg 2).toNat] else false = false) ∧
    (if h : (s.reg 0).toNat < 16 then false = s.keys[(s.reg 0).toNat] else false = false) := by decide
theorem test_hyp_KeyWaitTakesTheLowestKeyOrRewinds :
    fieldF 0xF50A = 0xF#4 ∧ fieldKK 0xF50A = 0x0A#8 ∧ fieldX 0xF50A = 5#4 ∧
    (let s := { s0 with keys := s0.keys.set 15 true }; s.keys[15] = true ∧ ∀ j : Fin 16, j < 15 → s.keys[j] = false) ∧
    (let s := { s0 with keys := Vector.replicate 16 true }; s.keys[0] = true ∧ ∀ j : Fin 16, j < 0 → s.keys[j] = false) ∧
    (∀ j : Fin 16, (holding s0 0xF50A).keys[j] = false) ∧ (holding s0 0xF50A).Dispatches (.ldVxK 5) :=
  ⟨by decide, by decide, by decide, by decide, by decide, by decide, by decide, by decide⟩
theorem test_hyp_GlyphAddress : fieldF 0xF129 = 0xF#4 ∧ fieldKK 0xF129 = 0x29#8 ∧ fieldX 0xF129 = 1#4 := by decide
theorem test_hyp_WrittenTimerLosesOneInItsCycle :
    (holding s0 0xF107).Dispatches (.ldVxDt 1) ∧ (holding s0 0xF115).Dispatches (.ldDtVx 1) ∧
    (holding s0 0xF118).Dispatches (.ldStVx 1) := ⟨⟨by decide, by decide⟩, ⟨by decide, by decide⟩, ⟨by decide, by decide⟩⟩
theorem test_hyp_BcdStoresThreeDigits : ({ s0 with i := 4093 } : State).i.toNat + 3 ≤ 4096 := by decide
theorem test_hyp_BlockStore :
    ({ s0 with i := 4080 } : State).i.toNat + (15#4 : Reg).toNat + 1 ≤ 4096 ∧
    ({ s0 with i := 4095 } : State).i.toNat + (0#4 : Reg).toNat + 1 ≤ 4096 := by decide
theorem test_hyp_BlockLoad : ({ s0 with i := 4081 } : State).i.toNat + (14#4 : Reg).toNat + 1 ≤ 4096 ∧ (14#4).toNat < (15#4).toNat := by
  decide
theorem test_hyp_BlockStoreThenLoadRestores : ({ s0 with i := 4080 } : State).i.toNat + (15#4 : Reg).toNat + 1 ≤ 4096 := by decide
theorem test_hyp_BoundsFailureChangesNothing :
    4096 < ({ s0 with i := 4082 } : State).i.toNat + (15#4 : Nibble).toNat ∧ 4096 < ({ s0 with i := 4094 } : State).i.toNat + 3 ∧
    4096 < ({ s0 with i := 4081 } : State).i.toNat + (15#4 : Reg).toNat + 1 := by decide

end Sys2Proof.Tests
end

section
/-! PROOFS. The fetch of a word from memory (20_memory.md R72, 40_cycle.md R141). -/

namespace Sys2Proof.Machine

/-- The word of two bytes, as a number: the byte at the lower address is the high one (R72). -/
theorem wordOfBytes_toNat (hi lo : Byte) : (wordOfBytes hi lo).toNat = hi.toNat * 256 + lo.toNat := by
  rw [wordOfBytes, BitVec.toNat_append, ← Nat.shiftLeft_add_eq_or_of_lt lo.isLt, Nat.shiftLeft_eq]

/-- With both addresses below the end of memory a fetch succeeds, and its state is `s` with the word at PC in OPC (R141). -/
theorem State.fetch_eq (s : State) (h : s.pc.toNat ≤ 0xFFE) :
    s.fetch = .ok { s with opc := wordOfBytes (s.readByte s.pc.toNat) (s.readByte (s.pc.toNat + 1)) } := by
  have hhi := s.memRead8_ok (show s.pc.toNat < 4096 by omega)
  have hlo := s.memRead8_ok (show s.pc.toNat + 1 < 4096 by omega)
  rw [State.fetch, hhi, hlo]

theorem State.setOpc_sameBut (s : State) (w : Word) : s.SameBut { s with opc := w } [.opc] := by
  intro f hf
  cases f
  case opc => simp at hf
  case mem => exact State.readByte_congr rfl rfl
  all_goals rfl

/-- Settles O5: a fetch at an address that leaves room for two bytes succeeds, its word is the high byte first, and OPC is the
one field it writes. -/
theorem fetchReadsTwoBytesHighFirst : Obligations.FetchReadsTwoBytesHighFirst :=
  fun s hpc => ⟨_, s.fetch_eq hpc, wordOfBytes_toNat _ _, s.setOpc_sameBut _⟩

end Sys2Proof.Machine
end

section
/-! PROOFS. JP, and the skips that compare two registers (41_control_flow.md R170, R171, R176, R177). -/

namespace Sys2Proof

/-! ### Families 0x1, 0x5 and 0x9 of the decoder (R105)

Each is one instruction; families 0x5 and 0x9 do not examine the low nibble. -/

theorem decode_of_fieldF_eq_1 {w : Word} (h : fieldF w = 0x1#4) : decode w = .instr (.jp (fieldNNN w)) := by
  simp only [decode, h]

theorem decode_of_fieldF_eq_5 {w : Word} (h : fieldF w = 0x5#4) : decode w = .instr (.seReg (fieldX w) (fieldY w)) := by
  simp only [decode, h]

theorem decode_of_fieldF_eq_9 {w : Word} (h : fieldF w = 0x9#4) : decode w = .instr (.sneReg (fieldX w) (fieldY w)) := by
  simp only [decode, h]

end Sys2Proof

namespace Sys2Proof.Machine

/-! ### JP -/

/-- An address operand fits in PC. -/
theorem State.setPc_addrOf_toNat (s : State) (nnn : Addr) : (s.setPc (addrOf nnn)).pc.toNat = nnn.toNat :=
  Nat.mod_eq_of_lt (show nnn.toNat < 2 ^ 16 by omega)

theorem execJp_of_mem {nnn : Addr} (h : 0x200 ≤ nnn.toNat ∧ nnn.toNat < 0xFFE) (s : State) :
    execJp nnn s = .next (s.setPc (addrOf nnn)) := if_pos h

theorem execJp_of_not_mem {nnn : Addr} (h : ¬(0x200 ≤ nnn.toNat ∧ nnn.toNat < 0xFFE)) (s : State) :
    execJp nnn s = .next (s.report .jumpRejected) := if_neg h

/-- Settles O33: JP is the whole of family 0x1; a target in range is written to PC, and any other is only reported. -/
theorem jpTakesOnlyTargetsInRange : Obligations.JpTakesOnlyTargetsInRange := by
  intro s nnn
  refine ⟨fun w hF hNNN => hNNN ▸ decode_of_fieldF_eq_1 hF, ?_⟩
  rw [exec_jp]
  by_cases h : 0x200 ≤ nnn.toNat ∧ nnn.toNat < 0xFFE
  case pos =>
    refine ⟨_, execJp_of_mem h s, ?_⟩
    rw [if_pos h]
    exact ⟨s.setPc_addrOf_toNat nnn, s.setPc_sameBut _⟩
  case neg =>
    refine ⟨_, execJp_of_not_mem h s, ?_⟩
    rw [if_neg h]
    exact ⟨rfl, s.report_sameBut _⟩

/-! ### Skips -/

theorem State.skipIf_pc (s : State) (c : Bool) : (s.skipIf c).pc = if c then s.pc + 2 else s.pc := by
  rw [State.skipIf_eq]

theorem State.skipIf_beq_pc (s : State) (a b : Byte) : (s.skipIf (a == b)).pc = if a = b then s.pc + 2 else s.pc := by
  simp only [State.skipIf_pc, beq_iff_eq]

theorem State.skipIf_bne_pc (s : State) (a b : Byte) : (s.skipIf (a != b)).pc = if a = b then s.pc else s.pc + 2 := by
  simp only [State.skipIf_pc, bne_iff_ne, ite_not]

/-- Settles O39: SE and SNE of two registers are the whole of their families, whatever the low nibble; each is a skip on its own
comparison. -/
theorem registerSkips : Obligations.RegisterSkips := by
  intro s x y
  refine ⟨?seDecode, ?sneDecode, fieldN_xyn _ x y _, fieldN_xyn _ x y _, ?seExec, ?sneExec⟩
  case seDecode =>
    rintro w hF rfl rfl
    exact decode_of_fieldF_eq_5 hF
  case sneDecode =>
    rintro w hF rfl rfl
    exact decode_of_fieldF_eq_9 hF
  case seExec => exact ⟨_, exec_seReg s x y, s.skipIf_beq_pc _ _, s.skipIf_sameBut _⟩
  case sneExec => exact ⟨_, exec_sneReg s x y, s.skipIf_bne_pc _ _, s.skipIf_sameBut _⟩

end Sys2Proof.Machine
end

section
/-! PROOFS. The register copy and the addition with carry (42_arith_logic.md R200, R201, R204, R208). -/

namespace Sys2Proof

/-! ### Family 0x8 of the decoder, on its low nibble (R107) -/

theorem decode_of_fieldF_eq_8 {w : Word} (h : fieldF w = 0x8#4) : decode w = decodeAlu w := by
  simp only [decode, h]

theorem decodeAlu_of_fieldN_eq_0 {w : Word} (h : fieldN w = 0x0#4) : decodeAlu w = .instr (.ldReg (fieldX w) (fieldY w)) := by
  simp only [decodeAlu, h]

theorem decodeAlu_of_fieldN_eq_4 {w : Word} (h : fieldN w = 0x4#4) : decodeAlu w = .instr (.addReg (fieldX w) (fieldY w)) := by
  simp only [decodeAlu, h]

end Sys2Proof

namespace Sys2Proof.Machine

/-! ### The registers after a write, and after a flag and a result (R201) -/

theorem State.setReg_regsSameBut (s : State) (x : Reg) (b : Byte) : s.RegsSameBut (s.setReg x b) [x] :=
  fun _ hr => s.reg_setReg_other b (List.ne_of_not_mem_cons hr)

/-- The result is written last, so it stays even where V[x] is the flag register. -/
theorem State.reg_setFlagThen_result (s : State) (x : Reg) (flag result : Byte) : (s.setFlagThen x flag result).reg x = result := by
  rw [s.reg_setFlagThen, if_pos rfl]

theorem State.reg_setFlagThen_flag (s : State) {x : Reg} (flag result : Byte) (h : x ≠ VF) :
    (s.setFlagThen x flag result).reg VF = flag := by
  rw [s.reg_setFlagThen, if_neg h.symm, if_pos rfl]

theorem State.setFlagThen_regsSameBut (s : State) (x : Reg) (flag result : Byte) :
    s.RegsSameBut (s.setFlagThen x flag result) [x, VF] := by
  intro r hr
  have hx : r ≠ x := List.ne_of_not_mem_cons hr
  have hVF : r ≠ VF := List.ne_of_not_mem_cons (List.not_mem_of_not_mem_cons hr)
  rw [s.reg_setFlagThen, if_neg hx, if_neg hVF]

/-! ### The sum and its carry as numbers (R208) -/

theorem sumByte_toNat (a b : Byte) : (sumByte a b).toNat = (a.toNat + b.toNat) % 256 := by
  rw [sumByte, BitVec.toNat_ofNat]
  exact Nat.mod_mod _ 256

theorem carryFlag_eq (a b : Byte) : carryFlag a b = if a.toNat + b.toNat > 255 then 1#8 else 0#8 :=
  if_congr decide_eq_true_iff rfl rfl

/-- Settles O41: a copy is one register write, of a value read before it. -/
theorem registerMove : Obligations.RegisterMove := by
  intro s x y
  refine ⟨?decodes, _, exec_ldReg s x y, s.reg_setReg_same x _, s.setReg_regsSameBut x _, s.setReg_sameBut x _⟩
  rintro w hF hN rfl rfl
  rw [decode_of_fieldF_eq_8 hF, decodeAlu_of_fieldN_eq_0 hN]

/-- Settles O43: the carry and the sum, both of the old registers, go to VF and then to V[x]. -/
theorem addSetsCarryThenResult : Obligations.AddSetsCarryThenResult := by
  intro s x y
  refine ⟨?decodes, _, exec_addReg s x y, ?result, fun hx => ?flag, s.setFlagThen_regsSameBut x _ _, s.setFlagThen_sameBut x _ _⟩
  case decodes =>
    rintro w hF hN rfl rfl
    rw [decode_of_fieldF_eq_8 hF, decodeAlu_of_fieldN_eq_4 hN]
  case result => rw [s.reg_setFlagThen_result, sumByte_toNat]
  case flag => rw [s.reg_setFlagThen_flag _ _ hx, carryFlag_eq]

end Sys2Proof.Machine
end

section
/-! PROOFS. The address of a glyph (46_memory_timer.md R305). -/

namespace Sys2Proof

/-! ### Family 0xF of the decoder, on its low byte (R109) -/

/-- The decoder's last arm is a wildcard: no family before it is 0xF. -/
theorem decode_of_fieldF_eq_F {w : Word} (h : fieldF w = 0xF#4) : decode w = decodeMisc w := by
  simp only [decode, h]
  rfl

theorem decodeMisc_of_fieldKK_eq_29 {w : Word} (h : fieldKK w = 0x29#8) : decodeMisc w = .instr (.ldFVx (fieldX w)) := by
  have hSelector : ¬(0x29#8).toNat > Config.fSelectorMax := by decide
  simp only [decodeMisc, h, if_neg hSelector]

end Sys2Proof

namespace Sys2Proof.Machine

/-! ### LD F -/

theorem State.setI_toNat (s : State) {a : Nat} (h : a < 2 ^ 16) : (s.setI a).i.toNat = a :=
  Nat.mod_eq_of_lt h

/-- The sixteen glyphs of five bytes lie below 0x0A0 (R52). -/
theorem glyphAddr_lt (b : Byte) : glyphAddr b < Config.fontBase + Config.fontSize := by
  simp only [glyphAddr, Config.fontBase, Config.fontSize]
  omega

/-- The address of a glyph fits in I. -/
theorem State.setI_glyphAddr_toNat (s : State) (b : Byte) : (s.setI (glyphAddr b)).i.toNat = glyphAddr b :=
  s.setI_toNat ((glyphAddr_lt b).trans (by decide))

/-- Settles O53: LD F is the one instruction of family 0xF with low byte 0x29, and its one write is the glyph's address, to I. -/
theorem glyphAddress : Obligations.GlyphAddress := by
  intro s x
  refine ⟨?decodes, _, exec_ldFVx s x, s.setI_glyphAddr_toNat (s.reg x), s.setI_sameBut _⟩
  rintro w hF hKK rfl
  rw [decode_of_fieldF_eq_F hF, decodeMisc_of_fieldKK_eq_29 hKK]

end Sys2Proof.Machine
end

section
/-! PROOFS. LOAD of an empty image (70_reset_and_hazards.md R386, R387). -/

namespace Sys2Proof.Machine

/-- The one status of a failed load is for the one image without bytes (R387). -/
theorem loadStatus_eq_empty_iff (image : List Byte) : loadStatus image = .empty ↔ image = [] := by
  cases image with
  | nil => exact iff_of_true (if_pos rfl) rfl
  | cons b bs =>
    have hLength : (b :: bs).length ≠ 0 := Nat.succ_ne_zero _
    rw [loadStatus, if_neg hLength]
    split <;> simp

@[simp] theorem State.pokeBytes_nil (s : State) (a : Nat) : s.pokeBytes a [] = s := rfl

/-- Of an empty image, LOAD's limit takes no byte, so LOAD writes none. -/
@[simp] theorem State.load_nil (s : State) : s.load [] = s := by
  rw [State.load, List.take_nil, State.pokeBytes_nil]

theorem transact_load (s : State) (image : List Byte) :
    transact (.load image) s = .next (s.load image, .loaded (loadStatus image)) := rfl

/-- Settles O19: no byte is written, and the status is the failed load's. -/
theorem emptyImageLeavesTheMachineUnmodified : Obligations.EmptyImageLeavesTheMachineUnmodified := by
  intro s
  rw [transact_load, State.load_nil, (loadStatus_eq_empty_iff []).mpr rfl]

end Sys2Proof.Machine
end

section
/-! PROOFS. The decoder and the encoder, each the other's inverse up to the bits the decoder ignores, by the rows of the opcode table
(30_encoding.md R105 to R115). -/

namespace Sys2Proof

/-! ### A field under a mask that examines the whole of it -/

theorem fieldF_eq_of_and {w m r : Word} (h : w &&& m = r) (hm : fieldF m = BitVec.allOnes 4) : fieldF w = fieldF r := by
  have hand : fieldF (w &&& m) = fieldF w &&& fieldF m := BitVec.extractLsb'_and
  rw [← h, hand, hm, BitVec.and_allOnes]

theorem fieldN_eq_of_and {w m r : Word} (h : w &&& m = r) (hm : fieldN m = BitVec.allOnes 4) : fieldN w = fieldN r := by
  have hand : fieldN (w &&& m) = fieldN w &&& fieldN m := BitVec.extractLsb'_and
  rw [← h, hand, hm, BitVec.and_allOnes]

theorem fieldKK_eq_of_and {w m r : Word} (h : w &&& m = r) (hm : fieldKK m = BitVec.allOnes 8) : fieldKK w = fieldKK r := by
  have hand : fieldKK (w &&& m) = fieldKK w &&& fieldKK m := BitVec.extractLsb'_and
  rw [← h, hand, hm, BitVec.and_allOnes]

/-! ### The rows -/

/-- The word lies on the instruction's row of the opcode table (R105). -/
def Instr.OnRow (i : Instr) (w : Word) : Prop := w &&& (rowOf i).2 = (rowOf i).1

/-- The instruction's own row, with the operands that `w` holds. -/
def Instr.withOperandsOf (w : Word) : Instr → Instr
  | .cls => .cls
  | .ret => .ret
  | .jp _ => .jp (fieldNNN w)
  | .call _ => .call (fieldNNN w)
  | .seImm _ _ => .seImm (fieldX w) (fieldKK w)
  | .sneImm _ _ => .sneImm (fieldX w) (fieldKK w)
  | .seReg _ _ => .seReg (fieldX w) (fieldY w)
  | .ldImm _ _ => .ldImm (fieldX w) (fieldKK w)
  | .addImm _ _ => .addImm (fieldX w) (fieldKK w)
  | .ldReg _ _ => .ldReg (fieldX w) (fieldY w)
  | .or _ _ => .or (fieldX w) (fieldY w)
  | .and _ _ => .and (fieldX w) (fieldY w)
  | .xor _ _ => .xor (fieldX w) (fieldY w)
  | .addReg _ _ => .addReg (fieldX w) (fieldY w)
  | .sub _ _ => .sub (fieldX w) (fieldY w)
  | .shr _ _ => .shr (fieldX w) (fieldY w)
  | .subn _ _ => .subn (fieldX w) (fieldY w)
  | .shl _ _ => .shl (fieldX w) (fieldY w)
  | .sneReg _ _ => .sneReg (fieldX w) (fieldY w)
  | .ldI _ => .ldI (fieldNNN w)
  | .jpV0 _ => .jpV0 (fieldNNN w)
  | .rnd _ _ => .rnd (fieldX w) (fieldKK w)
  | .drw _ _ _ => .drw (fieldX w) (fieldY w) (fieldN w)
  | .skp _ => .skp (fieldX w)
  | .sknp _ => .sknp (fieldX w)
  | .ldVxDt _ => .ldVxDt (fieldX w)
  | .ldVxK _ => .ldVxK (fieldX w)
  | .ldDtVx _ => .ldDtVx (fieldX w)
  | .ldStVx _ => .ldStVx (fieldX w)
  | .addIVx _ => .addIVx (fieldX w)
  | .ldFVx _ => .ldFVx (fieldX w)
  | .ldBVx _ => .ldBVx (fieldX w)
  | .ldMemVx _ => .ldMemVx (fieldX w)
  | .ldVxMem _ => .ldVxMem (fieldX w)


theorem rowOf_withOperandsOf (w : Word) (i : Instr) : rowOf (i.withOperandsOf w) = rowOf i := by
  cases i <;> rfl

/-- A word on a row decodes to that row's instruction, with the operands the word holds. -/
theorem decode_of_onRow {w : Word} {i : Instr} (h : i.OnRow w) : decode w = .instr (i.withOperandsOf w) := by
  cases i <;> rw [Instr.OnRow, rowOf] at h <;> have hF := fieldF_eq_of_and h rfl
  case cls | ret =>
    have hN := fieldN_eq_of_and h rfl
    rw [decode, hF]
    show decodeSystem w = _
    rw [decodeSystem, hN]; rfl
  case ldReg | or | and | xor | addReg | sub | shr | subn | shl =>
    have hN := fieldN_eq_of_and h rfl
    rw [decode_of_fieldF_eq_8 hF, decodeAlu, hN]; rfl
  case skp | sknp =>
    have hN := fieldN_eq_of_and h rfl
    rw [decode, hF]
    show decodeKeySkip w = _
    rw [decodeKeySkip, hN]; rfl
  case ldVxDt | ldVxK | ldDtVx | ldStVx | addIVx | ldFVx | ldBVx | ldMemVx | ldVxMem =>
    have hKK := fieldKK_eq_of_and h rfl
    rw [decode_of_fieldF_eq_F hF, decodeMisc, hKK]; rfl
  case jp | call | seImm | sneImm | seReg | ldImm | addImm | sneReg | ldI | jpV0 | rnd | drw =>
    rw [decode, hF]; rfl

/-- The encoder puts every instruction on its row. -/
theorem onRow_encode : ∀ i : Instr, i.OnRow (encode i)
  | .cls => Laws.Row.cls.2
  | .ret => Laws.Row.ret.2
  | .jp nnn => (Laws.Row.jp nnn).2
  | .call nnn => (Laws.Row.call nnn).2
  | .seImm x kk => (Laws.Row.seImm x kk).2
  | .sneImm x kk => (Laws.Row.sneImm x kk).2
  | .seReg x y => (Laws.Row.seReg x y).2
  | .ldImm x kk => (Laws.Row.ldImm x kk).2
  | .addImm x kk => (Laws.Row.addImm x kk).2
  | .ldReg x y => (Laws.Row.ldReg x y).2
  | .or x y => (Laws.Row.or x y).2
  | .and x y => (Laws.Row.and x y).2
  | .xor x y => (Laws.Row.xor x y).2
  | .addReg x y => (Laws.Row.addReg x y).2
  | .sub x y => (Laws.Row.sub x y).2
  | .shr x y => (Laws.Row.shr x y).2
  | .subn x y => (Laws.Row.subn x y).2
  | .shl x y => (Laws.Row.shl x y).2
  | .sneReg x y => (Laws.Row.sneReg x y).2
  | .ldI nnn => (Laws.Row.ldI nnn).2
  | .jpV0 nnn => (Laws.Row.jpV0 nnn).2
  | .rnd x kk => (Laws.Row.rnd x kk).2
  | .drw x y n => (Laws.Row.drw x y n).2
  | .skp x => (Laws.Row.skp x).2
  | .sknp x => (Laws.Row.sknp x).2
  | .ldVxDt x => (Laws.Row.ldVxDt x).2
  | .ldVxK x => (Laws.Row.ldVxK x).2
  | .ldDtVx x => (Laws.Row.ldDtVx x).2
  | .ldStVx x => (Laws.Row.ldStVx x).2
  | .addIVx x => (Laws.Row.addIVx x).2
  | .ldFVx x => (Laws.Row.ldFVx x).2
  | .ldBVx x => (Laws.Row.ldBVx x).2
  | .ldMemVx x => (Laws.Row.ldMemVx x).2
  | .ldVxMem x => (Laws.Row.ldVxMem x).2

/-- The fields of a canonical word are the operands it was built from (R101). -/
theorem withOperandsOf_encode (i : Instr) : i.withOperandsOf (encode i) = i := by
  cases i
  case cls | ret => rfl
  case jp | call | ldI | jpV0 => simp only [Instr.withOperandsOf, encode, fieldNNN_nnn]
  case seReg | ldReg | or | and | xor | addReg | sub | shr | subn | shl | sneReg | drw =>
    simp only [Instr.withOperandsOf, encode, fieldX_xyn, fieldY_xyn, fieldN_xyn]
  all_goals simp only [Instr.withOperandsOf, encode, fieldX_xkk, fieldKK_xkk]

/-- Settles O1: a canonical word lies on its instruction's row and holds its operands. -/
theorem encodeThenDecodeGivesTheInstruction : Obligations.EncodeThenDecodeGivesTheInstruction := by
  intro i
  rw [decode_of_onRow (onRow_encode i), withOperandsOf_encode]

/-! ### From a word's instruction to its row -/

/-- Everything the decoder can answer, by the word's family: a family that chooses among instructions, or one instruction. -/
theorem decode_cases (w : Word) :
    (fieldF w = 0x0#4 ∧ decode w = decodeSystem w) ∨ (fieldF w = 0x8#4 ∧ decode w = decodeAlu w) ∨
    (fieldF w = 0xE#4 ∧ decode w = decodeKeySkip w) ∨ (fieldF w = 0xF#4 ∧ decode w = decodeMisc w) ∨
    ∃ i : Instr, i.OnRow w ∧ decode w = .instr i := by
  generalize hd : decode w = d
  unfold decode at hd
  split at hd <;> rename_i hF
  case h_1 => exact .inl ⟨hF, hd.symm⟩
  case h_9 => exact .inr (.inl ⟨hF, hd.symm⟩)
  case h_15 => exact .inr (.inr (.inl ⟨hF, hd.symm⟩))
  case h_16 =>
    refine .inr (.inr (.inr (.inl ⟨?_, hd.symm⟩)))
    -- of the sixteen values of the family, the decoder's last arm leaves 0xF alone
    clear hd
    generalize fieldF w = f at *
    revert f
    decide
  all_goals
    refine .inr (.inr (.inr (.inr ⟨_, ?_, hd.symm⟩)))
    rw [Instr.OnRow, rowOf, and_mask_f, hF]; rfl

theorem onRow_of_decodeSystem {w : Word} {i : Instr} (hF : fieldF w = 0x0#4) (h : decodeSystem w = .instr i) : i.OnRow w := by
  unfold decodeSystem at h
  split at h <;> cases h <;> rename_i hN <;> (rw [Instr.OnRow, rowOf, and_mask_fn, hF, hN]; rfl)

theorem onRow_of_decodeAlu {w : Word} {i : Instr} (hF : fieldF w = 0x8#4) (h : decodeAlu w = .instr i) : i.OnRow w := by
  unfold decodeAlu at h
  split at h <;> cases h <;> rename_i hN <;> (rw [Instr.OnRow, rowOf, and_mask_fn, hF, hN]; rfl)

theorem onRow_of_decodeKeySkip {w : Word} {i : Instr} (hF : fieldF w = 0xE#4) (h : decodeKeySkip w = .instr i) : i.OnRow w := by
  unfold decodeKeySkip at h
  split at h <;> cases h <;> rename_i hN <;> (rw [Instr.OnRow, rowOf, and_mask_fn, hF, hN]; rfl)

theorem onRow_of_decodeMisc {w : Word} {i : Instr} (hF : fieldF w = 0xF#4) (h : decodeMisc w = .instr i) : i.OnRow w := by
  unfold decodeMisc at h
  split at h
  · cases h
  · split at h <;> cases h <;> rename_i hKK <;> (rw [Instr.OnRow, rowOf, and_mask_fkk, hF, hKK]; rfl)

theorem onRow_of_decode {w : Word} {i : Instr} (h : decode w = .instr i) : i.OnRow w := by
  obtain ⟨hF, hd⟩ | ⟨hF, hd⟩ | ⟨hF, hd⟩ | ⟨hF, hd⟩ | ⟨j, hj, hd⟩ := decode_cases w <;> rw [hd] at h
  · exact onRow_of_decodeSystem hF h
  · exact onRow_of_decodeAlu hF h
  · exact onRow_of_decodeKeySkip hF h
  · exact onRow_of_decodeMisc hF h
  · cases h
    exact hj

/-- The decoder, said once: a word is an instruction exactly when it lies on the instruction's row and holds its operands. -/
theorem decode_eq_instr_iff {w : Word} {i : Instr} : decode w = .instr i ↔ i.OnRow w ∧ i.withOperandsOf w = i := by
  constructor
  · intro h
    have hRow := onRow_of_decode h
    rw [decode_of_onRow hRow] at h
    exact ⟨hRow, Decoded.instr.inj h⟩
  · rintro ⟨hRow, hOps⟩
    rw [decode_of_onRow hRow, hOps]

/-- Only check (b)'s words are out of the selector's range (R109, R144). -/
theorem decode_eq_fRange_iff (w : Word) : decode w = .invalid .fRange ↔ fieldF w = 0xF#4 ∧ 0x65 < (fieldKK w).toNat := by
  constructor
  · intro h
    obtain ⟨-, hd⟩ | ⟨-, hd⟩ | ⟨-, hd⟩ | ⟨hF, hd⟩ | ⟨i, -, hd⟩ := decode_cases w <;> rw [hd] at h
    · unfold decodeSystem at h
      split at h <;> cases h
    · unfold decodeAlu at h
      split at h <;> cases h
    · unfold decodeKeySkip at h
      split at h <;> cases h
    · refine ⟨hF, ?_⟩
      unfold decodeMisc at h
      split at h
      case isTrue hKK => exact hKK
      case isFalse => split at h <;> cases h
    · cases h
  · rintro ⟨hF, hKK⟩
    rw [decode_of_fieldF_eq_F hF]
    exact if_pos hKK

/-! ### The canonical word and the bits the decoder ignores -/

section

variable {w : Word} {f : BitVec 4}

theorem nnn_of_fields (hF : fieldF w = f) : f ++ fieldNNN w = w := by
  have := w.isLt
  exact BitVec.eq_of_toNat_eq (by rw [← hF, toNat_nnn, fieldF_toNat, fieldNNN_toNat]; omega)

theorem xkk_of_fields {kk : Byte} (hF : fieldF w = f) (hKK : fieldKK w = kk) : f ++ fieldX w ++ kk = w := by
  have := w.isLt
  exact BitVec.eq_of_toNat_eq (by rw [← hF, ← hKK, toNat_xkk, fieldF_toNat, fieldX_toNat, fieldKK_toNat]; omega)

theorem xyn_of_fields {n : Nibble} (hF : fieldF w = f) (hN : fieldN w = n) : f ++ fieldX w ++ fieldY w ++ n = w := by
  have := w.isLt
  exact BitVec.eq_of_toNat_eq
    (by rw [← hF, ← hN, toNat_xyn, fieldF_toNat, fieldX_toNat, fieldY_toNat, fieldN_toNat]; omega)

end

/-- A mask acts on each field apart. -/
theorem and_eq_fields (w m : Word) :
    w &&& m = (fieldF w &&& fieldF m) ++ (fieldX w &&& fieldX m) ++ (fieldY w &&& fieldY m) ++ (fieldN w &&& fieldN m) := by
  have hF : fieldF (w &&& m) = fieldF w &&& fieldF m := BitVec.extractLsb'_and
  have hX : fieldX (w &&& m) = fieldX w &&& fieldX m := BitVec.extractLsb'_and
  have hY : fieldY (w &&& m) = fieldY w &&& fieldY m := BitVec.extractLsb'_and
  have hN : fieldN (w &&& m) = fieldN w &&& fieldN m := BitVec.extractLsb'_and
  rw [← hX, ← hY, xyn_of_fields hF hN]

/-- Two words agree under a mask when they agree in each field that the mask does not blank. -/
theorem and_congr_fields {u w m : Word} (hF : fieldF u = fieldF w) (hX : fieldX u = fieldX w ∨ fieldX m = 0)
    (hY : fieldY u = fieldY w ∨ fieldY m = 0) (hN : fieldN u = fieldN w ∨ fieldN m = 0) : u &&& m = w &&& m := by
  have hand (n : Nat) (a b c : BitVec n) (h : a = b ∨ c = 0) : a &&& c = b &&& c := by
    rcases h with rfl | rfl
    · rfl
    · rw [BitVec.ofNat_eq_ofNat, BitVec.and_zero, BitVec.and_zero]
  rw [and_eq_fields, and_eq_fields w, hF, hand _ _ _ _ hX, hand _ _ _ _ hY, hand _ _ _ _ hN]

/-- A word on an instruction's row is, but for the ignored bits, that instruction's word with the operands it holds. -/
theorem encode_withOperandsOf {w : Word} {i : Instr} (h : i.OnRow w) :
    encode (i.withOperandsOf w) &&& ~~~ignoredBits i = w &&& ~~~ignoredBits i := by
  cases i <;> rw [Instr.OnRow, rowOf] at h <;> rw [Instr.withOperandsOf, encode, ignoredBits] <;>
    have hF := fieldF_eq_of_and h rfl
  case cls | ret => exact and_congr_fields hF.symm (.inr rfl) (.inr rfl) (.inl (fieldN_eq_of_and h rfl).symm)
  case skp | sknp =>
    exact and_congr_fields ((fieldF_xkk _ _ _).trans hF.symm) (.inl (fieldX_xkk _ _ _)) (.inr rfl)
      (.inl ((fieldN_xkk _ _ _).trans (fieldN_eq_of_and h rfl).symm))
  case seReg | sneReg =>
    exact and_congr_fields ((fieldF_xyn _ _ _ _).trans hF.symm) (.inl (fieldX_xyn _ _ _ _)) (.inl (fieldY_xyn _ _ _ _))
      (.inr rfl)
  case jp | call | ldI | jpV0 => exact congrArg (· &&& _) (nnn_of_fields hF)
  case seImm | sneImm | ldImm | addImm | rnd => exact congrArg (· &&& _) (xkk_of_fields hF rfl)
  case drw => exact congrArg (· &&& _) (xyn_of_fields hF rfl)
  case ldReg | or | and | xor | addReg | sub | shr | subn | shl =>
    exact congrArg (· &&& _) (xyn_of_fields hF (fieldN_eq_of_and h rfl))
  case ldVxDt | ldVxK | ldDtVx | ldStVx | addIVx | ldFVx | ldBVx | ldMemVx | ldVxMem =>
    exact congrArg (· &&& _) (xkk_of_fields hF (fieldKK_eq_of_and h rfl))

/-- Settles O2: a decoded word lies on its instruction's row and holds its operands, so it is the canonical word where the decoder
looks. -/
theorem decodeThenEncodeGivesTheWordBack : Obligations.DecodeThenEncodeGivesTheWordBack := by
  intro w i h
  obtain ⟨hRow, hOps⟩ := decode_eq_instr_iff.mp h
  rw [← encode_withOperandsOf hRow, hOps]

/-! ### The table -/

theorem exists_rowOf_of_mem {r : Word × Word} (h : r ∈ opcodeRows) : ∃ i, rowOf i = r := by
  simp only [opcodeRows, List.mem_append, List.mem_map] at h
  obtain ((⟨i, -, h⟩ | ⟨i, -, h⟩) | ⟨i, -, h⟩) | ⟨i, -, h⟩ := h <;> exact ⟨i, h⟩

theorem rowOf_mem (i : Instr) : rowOf i ∈ opcodeRows := by
  cases i <;> dsimp only [rowOf] <;> decide

/-- Settles O3: the row a word lies on fixes what it decodes to, so two rows of one word are one row, and a word on none is invalid. -/
theorem wordsDecodeByTheirRow : Obligations.WordsDecodeByTheirRow := by
  intro w
  refine ⟨fun i => onRow_of_decode, ?atMostOne, ?invalid, decode_eq_fRange_iff w⟩
  case atMostOne =>
    intro r hr q hq hwr hwq
    obtain ⟨i, rfl⟩ := exists_rowOf_of_mem hr
    obtain ⟨j, rfl⟩ := exists_rowOf_of_mem hq
    have hij := (decode_of_onRow hwr).symm.trans (decode_of_onRow hwq)
    rw [← rowOf_withOperandsOf w i, Decoded.instr.inj hij, rowOf_withOperandsOf]
  case invalid =>
    constructor
    · rintro ⟨why, hd⟩ r hr hwr
      obtain ⟨i, rfl⟩ := exists_rowOf_of_mem hr
      exact absurd (hd.symm.trans (decode_of_onRow hwr)) (by simp)
    · intro hNone
      cases hd : decode w with
      | instr i => exact absurd (onRow_of_decode hd) (hNone _ (rowOf_mem i))
      | invalid why => exact ⟨why, rfl⟩

/-- Settles O4: the decoder runs on eight written words. -/
theorem writtenWordsDecode : Obligations.WrittenWordsDecode := by
  unfold Obligations.WrittenWordsDecode
  decide

end Sys2Proof
end

section
/-! PROOFS. Sprites: what a draw leaves in the frame, the flag and REDRAW (44_display.md R250 to R255). -/

namespace Sys2Proof.Machine

/-! ### Pixels -/

theorem pixelAt_of_mem (fb : Framebuffer) {x y : Nat} (hx : x < 64) (hy : y < 32) : pixelAt fb x y = fb[y][x] :=
  dif_pos ⟨hx, hy⟩

theorem pixelAt_of_not_mem (fb : Framebuffer) {x y : Nat} (h : ¬(x < 64 ∧ y < 32)) : pixelAt fb x y = 0 :=
  dif_neg h

@[simp] theorem pixelAt_blankFb (x y : Nat) : pixelAt blankFb x y = 0 := by
  by_cases h : x < 64 ∧ y < 32
  · simp [pixelAt_of_mem _ h.1 h.2, blankFb]
  · exact pixelAt_of_not_mem _ h

theorem togglePixel_of_not_mem (c : Canvas) {x y : Nat} (h : ¬(x < 64 ∧ y < 32)) : togglePixel x y c = c :=
  dif_neg h

section

variable (c : Canvas) {x y : Nat} (hx : x < 64) (hy : y < 32)
include hx hy

theorem togglePixel_pixelAt (X Y : Nat) :
    pixelAt (togglePixel x y c).fb X Y = if X = x ∧ Y = y then pixelAt c.fb X Y ^^^ 1 else pixelAt c.fb X Y := by
  by_cases h : X < 64 ∧ Y < 32
  case neg =>
    have hne : ¬(X = x ∧ Y = y) := fun ⟨hX, hY⟩ => h ⟨hX ▸ hx, hY ▸ hy⟩
    rw [pixelAt_of_not_mem _ h, pixelAt_of_not_mem _ h, if_neg hne]
  case pos =>
    rw [pixelAt_of_mem _ h.1 h.2, pixelAt_of_mem _ h.1 h.2]
    simp only [togglePixel, hx, hy, and_self, dite_true, Vector.getElem_set]
    by_cases hY : y = Y
    · subst hY
      by_cases hX : x = X
      · subst hX; simp
      · simp [hX, Ne.symm hX]
    · simp [hY, Ne.symm hY]

theorem togglePixel_collision : (togglePixel x y c).collision = (c.collision || pixelAt c.fb x y == 1) := by
  simp [togglePixel, hx, hy, pixelAt_of_mem]

theorem togglePixel_changed : (togglePixel x y c).changed = true := by
  simp [togglePixel, hx, hy]

end

/-- A sprite row drawn at column `px` has a set bit on column `X`, one of its own columns `k`, ..., 7, bit 7 being column 0 (R251). -/
def SetsColumn (row : Byte) (px k X : Nat) : Prop := px + k ≤ X ∧ X < px + 8 ∧ row.getLsbD (7 - (X - px)) = true

theorem not_setsColumn_eight {row : Byte} {px X : Nat} : ¬SetsColumn row px 8 X := by
  rintro ⟨hlo, hhi, -⟩
  omega

theorem setsColumn_succ {row : Byte} {px X fuel : Nat} (h : fuel + 1 ≤ 8) :
    SetsColumn row px (8 - (fuel + 1)) X ↔ X = px + (7 - fuel) ∧ row.getLsbD fuel = true ∨ SetsColumn row px (8 - fuel) X := by
  unfold SetsColumn
  by_cases hX : X = px + (7 - fuel)
  case pos =>
    have hbit : 7 - (X - px) = fuel := by omega
    rw [hbit]
    constructor
    · exact fun hcol => .inl ⟨hX, hcol.2.2⟩
    · rintro (⟨-, hrow⟩ | ⟨hlo, -, -⟩)
      · exact ⟨by omega, by omega, hrow⟩
      · omega
  case neg =>
    constructor
    · exact fun ⟨hlo, hhi, hrow⟩ => .inr ⟨by omega, hhi, hrow⟩
    · exact fun hcol => hcol.elim (fun h' => absurd h'.1 hX) fun ⟨hlo, hhi, hrow⟩ => ⟨by omega, hhi, hrow⟩

/-! ### What has been drawn

A draw touches each pixel once at most, so that the canvas is known from the set of the pixels touched so far. -/

/-- The canvas that a draw on `fb` has reached when it has touched just the pixels in `P` (R252): they have flipped, a collision is one
of them that was 1, and a change is one of them in the frame. -/
structure Canvas.Drawn (fb : Framebuffer) (P : Nat → Nat → Prop) (c : Canvas) : Prop where
  flipped : ∀ X Y, X < 64 → Y < 32 → P X Y → pixelAt c.fb X Y = pixelAt fb X Y ^^^ 1
  kept : ∀ X Y, X < 64 → Y < 32 → ¬P X Y → pixelAt c.fb X Y = pixelAt fb X Y
  collision_iff : c.collision = true ↔ ∃ X Y, X < 64 ∧ Y < 32 ∧ P X Y ∧ pixelAt fb X Y = 1
  changed_iff : c.changed = true ↔ ∃ X Y, X < 64 ∧ Y < 32 ∧ P X Y

namespace Canvas.Drawn

variable {fb : Framebuffer} {P Q : Nat → Nat → Prop} {c : Canvas}

/-- Only the pixels of the frame count: a sprite clips at its edges (R255). -/
theorem congr (h : c.Drawn fb P) (hPQ : ∀ X Y, X < 64 → Y < 32 → (P X Y ↔ Q X Y)) : c.Drawn fb Q where
  flipped X Y hX hY hQ := h.flipped X Y hX hY ((hPQ X Y hX hY).mpr hQ)
  kept X Y hX hY hQ := h.kept X Y hX hY fun hP => hQ ((hPQ X Y hX hY).mp hP)
  collision_iff := by
    rw [h.collision_iff]
    exact exists₂_congr fun X Y => and_congr_right fun hX => and_congr_right fun hY => and_congr_left fun _ => hPQ X Y hX hY
  changed_iff := by
    rw [h.changed_iff]
    exact exists₂_congr fun X Y => and_congr_right fun hX => and_congr_right fun hY => hPQ X Y hX hY

theorem start (fb : Framebuffer) : Canvas.Drawn fb (fun _ _ => False) ⟨fb, false, false⟩ where
  flipped := by simp
  kept := by simp
  collision_iff := by simp
  changed_iff := by simp

/-- One more pixel, not touched before. -/
theorem toggle (h : c.Drawn fb P) {x y : Nat} (hnew : ¬P x y) :
    (togglePixel x y c).Drawn fb (fun X Y => P X Y ∨ X = x ∧ Y = y) := by
  by_cases hin : x < 64 ∧ y < 32
  case neg =>
    rw [togglePixel_of_not_mem c hin]
    refine h.congr fun X Y hX hY => ⟨.inl, fun hP => hP.resolve_right ?_⟩
    rintro ⟨rfl, rfl⟩
    exact hin ⟨hX, hY⟩
  case pos =>
    obtain ⟨hx, hy⟩ := hin
    have hpix := togglePixel_pixelAt c hx hy
    have hold : pixelAt c.fb x y = pixelAt fb x y := h.kept x y hx hy hnew
    refine ⟨fun X Y hX hY hP => ?flipped, fun X Y hX hY hP => ?kept, ?collision, ?changed⟩
    case flipped =>
      rcases hP with hP | ⟨rfl, rfl⟩
      · have hne : ¬(X = x ∧ Y = y) := by
          rintro ⟨rfl, rfl⟩
          exact hnew hP
        rw [hpix, if_neg hne, h.flipped X Y hX hY hP]
      · rw [hpix, if_pos ⟨rfl, rfl⟩, hold]
    case kept =>
      rw [not_or] at hP
      rw [hpix, if_neg hP.2, h.kept X Y hX hY hP.1]
    case collision =>
      rw [togglePixel_collision c hx hy, hold, Bool.or_eq_true, h.collision_iff, beq_iff_eq]
      constructor
      · rintro (⟨X, Y, hX, hY, hP, h1⟩ | h1)
        · exact ⟨X, Y, hX, hY, .inl hP, h1⟩
        · exact ⟨x, y, hx, hy, .inr ⟨rfl, rfl⟩, h1⟩
      · rintro ⟨X, Y, hX, hY, hP | ⟨rfl, rfl⟩, h1⟩
        · exact .inl ⟨X, Y, hX, hY, hP, h1⟩
        · exact .inr h1
    case changed =>
      exact iff_of_true (togglePixel_changed c hx hy) ⟨x, y, hx, hy, .inr ⟨rfl, rfl⟩⟩

/-- The columns of a sprite row from `8 - fuel` on. -/
theorem cols (h : c.Drawn fb P) (row : Byte) (px y : Nat) {fuel : Nat} (hfuel : fuel ≤ 8)
    (hnew : ∀ X, px + (8 - fuel) ≤ X → ¬P X y) :
    (drawCols row px y fuel c).Drawn fb (fun X Y => P X Y ∨ Y = y ∧ SetsColumn row px (8 - fuel) X) := by
  induction fuel generalizing c P with
  | zero => exact h.congr fun X Y _ _ => ⟨.inl, fun hP => hP.resolve_right fun hcol => not_setsColumn_eight hcol.2⟩
  | succ fuel ih =>
    have hle : fuel ≤ 8 := by omega
    rw [drawCols]
    split
    case isTrue hbit =>
      have hfirst : ¬P (px + (7 - fuel)) y := hnew _ (by omega)
      refine (ih (h.toggle hfirst) hle fun X hX => ?new).congr fun X Y _ _ => ?touched
      case new =>
        rw [not_or]
        exact ⟨hnew X (by omega), by omega⟩
      case touched =>
        rw [setsColumn_succ hfuel]
        tauto
    case isFalse hbit =>
      refine (ih h hle fun X hX => hnew X (by omega)).congr fun X Y _ _ => ?touched
      case touched =>
        rw [setsColumn_succ hfuel]
        tauto

/-- The rows of a sprite from row `y` down. -/
theorem rows (h : c.Drawn fb P) (px y : Nat) (rows : List Byte) (hnew : ∀ X Y, y ≤ Y → ¬P X Y) :
    (drawRows px y rows c).Drawn fb
      (fun X Y => P X Y ∨ ∃ k, Y = y + k ∧ ∃ row, rows[k]? = some row ∧ SetsColumn row px 0 X) := by
  induction rows generalizing c P y with
  | nil => exact h.congr fun X Y _ _ => by simp
  | cons row rest ih =>
    rw [drawRows]
    refine (ih (h.cols row px y le_rfl fun X _ => hnew X y le_rfl) (y + 1) fun X Y hY => ?new).congr fun X Y _ _ => ?touched
    case new =>
      rw [not_or]
      exact ⟨hnew X Y (by omega), by omega⟩
    case touched =>
      rw [← Nat.or_exists_add_one (p := fun k => Y = y + k ∧ _)]
      simp only [Nat.add_zero, List.getElem?_cons_zero, List.getElem?_cons_succ, Option.some.injEq, exists_eq_left',
        Nat.sub_self, or_assoc, Nat.add_assoc, Nat.add_comm 1]

/-- Of a pixel that is 0 or 1, a draw leaves 0 or 1. -/
theorem pixel_bit (h : c.Drawn fb P) (hbit : ∀ x y, pixelAt fb x y = 0 ∨ pixelAt fb x y = 1) (X Y : Nat) :
    pixelAt c.fb X Y = 0 ∨ pixelAt c.fb X Y = 1 := by
  by_cases hin : X < 64 ∧ Y < 32
  case neg => exact .inl (pixelAt_of_not_mem _ hin)
  case pos =>
    by_cases hP : P X Y
    · rw [h.flipped X Y hin.1 hin.2 hP]
      rcases hbit X Y with h0 | h1
      · exact .inr (by rw [h0]; rfl)
      · exact .inl (by rw [h1]; rfl)
    · rw [h.kept X Y hin.1 hin.2 hP]
      exact hbit X Y

end Canvas.Drawn

/-! ### CLS and DRW -/

/-- A whole sprite, from a canvas that nothing has touched. -/
theorem drawSprite_drawn (fb : Framebuffer) (px py : Nat) (rows : List Byte) :
    (drawSprite fb px py rows).Drawn fb (fun X Y => ∃ k, Y = py + k ∧ ∃ row, rows[k]? = some row ∧ SetsColumn row px 0 X) :=
  ((Canvas.Drawn.start fb).rows px py rows fun _ _ _ => not_false).congr fun _ _ _ _ => iff_of_eq (false_or _)

/-- The sprite at I, as the rows that a load reads there. -/
theorem State.spriteSets_iff (s : State) (px py n X Y : Nat) :
    s.SpriteSets px py n X Y ↔ ∃ k, Y = py + k ∧ ∃ row,
      ((List.range n).map fun k => s.readByte (s.i.toNat + k))[k]? = some row ∧ SetsColumn row px 0 X := by
  have hrow (k : Nat) (row : Byte) :
      ((List.range n).map fun k => s.readByte (s.i.toNat + k))[k]? = some row ↔ k < n ∧ s.readByte (s.i.toNat + k) = row := by
    simp [List.getElem?_eq_some_iff]
  simp only [hrow, State.SpriteSets, SetsColumn]
  constructor
  · rintro ⟨hpx, hX, hpy, hY, hbit⟩
    exact ⟨Y - py, by omega, _, ⟨by omega, rfl⟩, by omega, hX, hbit⟩
  · rintro ⟨k, rfl, row, ⟨hk, rfl⟩, hpx, hX, hbit⟩
    exact ⟨by omega, hX, by omega, by omega, by rwa [Nat.add_sub_cancel_left]⟩

/-- DRW in bounds draws the sprite at I, at the coordinates read before VF is written (R252). -/
theorem execDrw_of_le {s : State} (x y : Reg) {n : Nibble} (h : s.i.toNat + n.toNat ≤ 4096) :
    ∃ c : Canvas, execDrw x y n s = .next (s.finishDraw c) ∧
      c.Drawn s.fb (s.SpriteSets (s.reg x).toNat (s.reg y).toNat n.toNat) :=
  ⟨_, s.loadAtI_ok _ _ _ h, (drawSprite_drawn _ _ _ _).congr fun _ _ _ _ => (s.spriteSets_iff _ _ _ _ _).symm⟩

theorem flagOf_bit (c : Bool) : flagOf c = 0 ∨ flagOf c = 1 := by
  cases c
  · exact .inl rfl
  · exact .inr rfl

theorem flagOf_eq_one_iff (c : Bool) : flagOf c = 1 ↔ c = true := by
  cases c <;> decide

theorem State.finishDraw_flag (s : State) (c : Canvas) : (s.finishDraw c).reg VF = flagOf c.collision :=
  State.reg_setReg_same _ _ _

theorem State.finishDraw_regsSameBut (s : State) (c : Canvas) : s.RegsSameBut (s.finishDraw c) [VF] :=
  State.setReg_regsSameBut (s.paint c.fb c.changed) VF _

/-- Settles O47: every pixel of the blank frame is 0, and REDRAW is set whatever it was. -/
theorem clsBlanksTheScreen : Obligations.ClsBlanksTheScreen :=
  fun s => ⟨_, exec_cls s, pixelAt_blankFb, Bool.or_true _, s.paint_sameBut _ _⟩

/-- Settles O48: the canvas of the whole sprite is known from the pixels it touches. -/
theorem drawFlipsExactlyTheSpritePixels : Obligations.DrawFlipsExactlyTheSpritePixels := by
  intro s x y n h
  obtain ⟨c, hexec, hdrawn⟩ := execDrw_of_le x y h
  refine ⟨_, (exec_drw s x y n).trans hexec, fun X Y hX hY => ⟨hdrawn.flipped X Y hX hY, hdrawn.kept X Y hX hY⟩, ?bit, ?flag,
    ?redraw, s.finishDraw_regsSameBut c, s.finishDraw_sameBut c⟩
  case bit =>
    rw [s.finishDraw_flag]
    exact flagOf_bit _
  case flag => rw [s.finishDraw_flag, flagOf_eq_one_iff, hdrawn.collision_iff]
  case redraw => rw [← hdrawn.changed_iff, ← Bool.or_eq_true]; rfl

/-- A flipped pixel is 1 just when the pixel was 0. -/
theorem xor_one_eq_one_iff (b : Byte) : b ^^^ 1 = 1 ↔ b = 0 := by
  rw [← BitVec.xor_left_inj (x := b) (y := 0) 1]
  rfl

/-- Settles O49: the second draw touches the pixels that the first one did, so each of them flips twice, and collides just where it
was 0 before the first. -/
theorem drawingTwiceRestoresTheFrame : Obligations.DrawingTwiceRestoresTheFrame := by
  intro s t u x y n h ht hu
  obtain ⟨c, hc, hfirst⟩ := execDrw_of_le x y h
  obtain rfl : s.finishDraw c = t := Host.Outcome.next.inj (hc.symm.trans ht)
  obtain ⟨d, hd, hdrawn⟩ := execDrw_of_le (s := { s.finishDraw c with v := s.v }) x y h
  obtain rfl : State.finishDraw _ d = u := Host.Outcome.next.inj (hd.symm.trans hu)
  have hsecond : d.Drawn c.fb (s.SpriteSets (s.reg x).toNat (s.reg y).toNat n.toNat) := hdrawn
  refine ⟨fun X Y => ?restored, ?flag⟩
  case restored =>
    show pixelAt d.fb X Y = pixelAt s.fb X Y
    by_cases hin : X < 64 ∧ Y < 32
    case neg => rw [pixelAt_of_not_mem _ hin, pixelAt_of_not_mem _ hin]
    case pos =>
      obtain ⟨hX, hY⟩ := hin
      by_cases hP : s.SpriteSets (s.reg x).toNat (s.reg y).toNat n.toNat X Y
      · rw [hsecond.flipped X Y hX hY hP, hfirst.flipped X Y hX hY hP, BitVec.xor_assoc, BitVec.xor_self, BitVec.xor_zero]
      · rw [hsecond.kept X Y hX hY hP, hfirst.kept X Y hX hY hP]
  case flag =>
    rw [State.finishDraw_flag, flagOf_eq_one_iff, hsecond.collision_iff]
    refine exists₂_congr fun X Y => and_congr_right fun hX => and_congr_right fun hY => and_congr_right fun hP => ?_
    rw [hfirst.flipped X Y hX hY hP, xor_one_eq_one_iff]

end Sys2Proof.Machine
end

section
/-! PROOFS. What an instruction and a step can do, said once, and the rules over every instruction and every step that follow from it
(10_state.md, 40_cycle.md, 60_exceptions.md). -/

namespace Sys2Proof.Machine

/-! ### What an instruction can do -/

/-- The state after a call with room on the stack: the push, and the jump (R172). -/
def State.called (s : State) (h : s.sp.val < 16) (nnn : Addr) : State :=
  State.setPc { s with stack := s.stack.set s.sp.val s.pc h, sp := ⟨s.sp.val + 1, by omega⟩ } (addrOf nnn)

/-- The state after a return to the entry below SP (R173). -/
def State.returned (s : State) : State :=
  { s with sp := ⟨s.sp.val - 1, by omega⟩, pc := s.stack[s.sp.val - 1]'(by omega) }

/-- The state after an instruction, by the kind of its effect: the instructions that write the same things share a constructor, and
one whose effect the whole-machine rules single out has its own. -/
inductive Effect (s : State) : Instr → State → Prop
  /-- Registers alone. -/
  | regs (i : Instr) (v : Vector Byte 16) : Effect s i { s with v := v }
  /-- A register from the random source (R241). -/
  | random (x : Reg) (kk : Byte) (v : Vector Byte 16) (draws : List Byte) (k : Nat) :
      Effect s (.rnd x kk) { s with v := v, draws := draws, freeDraws := k }
  /-- A skip, taken or not (R170). -/
  | skip (i : Instr) (c : Bool) : Effect s i { s with pc := if c then s.pc + 2 else s.pc }
  /-- A jump to an address operand (R171). -/
  | jump (i : Instr) (nnn : Addr) : Effect s i (s.setPc (addrOf nnn))
  /-- The indexed jump (R178). -/
  | indexedJump (nnn : Addr) : Effect s (.jpV0 nnn) (s.setPc (addrOf nnn + (s.reg 0).toNat))
  /-- A call with room on the stack (R172). -/
  | call (nnn : Addr) (h : s.sp.val < 16) : Effect s (.call nnn) (s.called h nnn)
  /-- A return (R173). -/
  | ret (h : s.sp.val ≠ 0) : Effect s .ret s.returned
  /-- A full reset: a call on a full stack, a return on an empty one (R345). -/
  | fullReset (i : Instr) {cause : Event} (h : cause = .stackOverflow ∨ cause = .stackUnderflow) :
      Effect s i (s.raiseFullReset cause)
  /-- A rejected jump or a failed bounds check: a report and nothing else (R346, R347). -/
  | rejected (i : Instr) {cause : Event} (h : cause ≠ .invalidOpcode ∧ cause ≠ .invalidEscalation) : Effect s i (s.report cause)
  /-- The key wait (R283). -/
  | keyWait (x : Reg) : Effect s (.ldVxK x) (s.rewind.report .keyWait)
  /-- A write to I, of an address of memory (R300, R304, R305). -/
  | index {i : Instr} (hi : (∃ nnn, i = .ldI nnn) ∨ ∃ x, i = .addIVx x ∨ i = .ldFVx x) {a : Nat} (ha : a ≤ 0xFFF) :
      Effect s i (s.setI a)
  /-- A write to DT (R302). -/
  | delay (i : Instr) (b : Byte) : Effect s i (s.setDt b)
  /-- A write to ST (R303). -/
  | sound (i : Instr) (b : Byte) : Effect s i (s.setSt b)
  /-- CLS (R250). -/
  | clear : Effect s .cls (s.paint blankFb true)
  /-- A draw in bounds (R252). -/
  | draw (x y : Reg) (n : Nibble) {c : Canvas} (P : Nat → Nat → Prop) (h : c.Drawn s.fb P) : Effect s (.drw x y n) (s.finishDraw c)
  /-- A store in bounds (R306, R307). -/
  | store {i : Instr} {bytes : List Byte}
      (hi : (∃ x, i = .ldBVx x ∧ bytes.length = 3) ∨ ∃ x, i = .ldMemVx x ∧ bytes.length = x.toNat + 1)
      (h : s.i.toNat + bytes.length ≤ 4096) : Effect s i { s with mem := (s.pokeBytes s.i.toNat bytes).mem }

/-- A store in bounds, or a report that it is not. -/
theorem State.storeAtI_effect (s : State) {i : Instr} {cause : Event} {bytes : List Byte}
    (hi : (∃ x, i = .ldBVx x ∧ bytes.length = 3) ∨ ∃ x, i = .ldMemVx x ∧ bytes.length = x.toNat + 1)
    (hc : cause ≠ .invalidOpcode ∧ cause ≠ .invalidEscalation) : ∃ t, s.storeAtI cause bytes = .next t ∧ Effect s i t := by
  rcases Nat.lt_or_ge 4096 (s.i.toNat + bytes.length) with h | h
  · exact ⟨_, s.storeAtI_oob cause bytes h, .rejected i hc⟩
  · exact ⟨_, s.storeAtI_ok cause bytes h, s.pokeBytes_eq _ _ ▸ .store hi h⟩

theorem execJp_effect (nnn : Addr) (s : State) : ∃ t, execJp nnn s = .next t ∧ Effect s (.jp nnn) t := by
  by_cases h : 0x200 ≤ nnn.toNat ∧ nnn.toNat < 0xFFE
  · exact ⟨_, execJp_of_mem h s, .jump _ nnn⟩
  · exact ⟨_, execJp_of_not_mem h s, .rejected _ (by decide)⟩

theorem execCall_of_lt {s : State} (nnn : Addr) (h : s.sp.val < 16) :
    execCall nnn s = .next (s.called h nnn) := by
  rw [execCall, s.pushReturn_some h]
  rfl

theorem execCall_of_full {s : State} (nnn : Addr) (h : 16 ≤ s.sp.val) :
    execCall nnn s = .next (s.raiseFullReset .stackOverflow) := by
  rw [execCall, s.pushReturn_none h]

theorem execCall_effect (nnn : Addr) (s : State) : ∃ t, execCall nnn s = .next t ∧ Effect s (.call nnn) t := by
  rcases Nat.lt_or_ge s.sp.val 16 with h | h
  · exact ⟨_, execCall_of_lt nnn h, .call nnn h⟩
  · exact ⟨_, execCall_of_full nnn h, .fullReset _ (.inl rfl)⟩

theorem execRet_of_pos {s : State} (h : s.sp.val ≠ 0) : execRet s = .next s.returned := by
  rw [execRet, s.popReturn_some h]
  rfl

theorem execRet_of_empty {s : State} (h : s.sp.val = 0) : execRet s = .next (s.raiseFullReset .stackUnderflow) := by
  rw [execRet, s.popReturn_none h]

theorem execRet_effect (s : State) : ∃ t, execRet s = .next t ∧ Effect s .ret t := by
  by_cases h : s.sp.val = 0
  · exact ⟨_, execRet_of_empty h, .fullReset _ (.inr rfl)⟩
  · exact ⟨_, execRet_of_pos h, .ret h⟩

theorem execDrw_effect (x y : Reg) (n : Nibble) (s : State) : ∃ t, execDrw x y n s = .next t ∧ Effect s (.drw x y n) t := by
  rcases Nat.lt_or_ge 4096 (s.i.toNat + n.toNat) with h | h
  · exact ⟨_, s.loadAtI_oob _ _ _ h, .rejected _ (by decide)⟩
  · obtain ⟨c, hexec, hc⟩ := execDrw_of_le x y h
    exact ⟨_, hexec, .draw x y n _ hc⟩

theorem execLdVxMem_effect (x : Reg) (s : State) : ∃ t, execLdVxMem x s = .next t ∧ Effect s (.ldVxMem x) t := by
  rcases Nat.lt_or_ge 4096 (s.i.toNat + (x.toNat + 1)) with h | h
  · exact ⟨_, s.loadAtI_oob _ _ _ h, .rejected _ (by decide)⟩
  · exact ⟨_, s.loadAtI_ok _ _ _ h, .regs _ _⟩

theorem execLdVxK_of_some {s : State} (x : Reg) {k : Nat} (h : s.firstKey = some k) :
    execLdVxK x s = .next (s.setReg x (BitVec.ofNat 8 k)) := by
  rw [execLdVxK, h]

theorem execLdVxK_of_none {s : State} (x : Reg) (h : s.firstKey = none) :
    execLdVxK x s = .next (s.rewind.report .keyWait) := by
  rw [execLdVxK, h]

theorem execLdVxK_effect (x : Reg) (s : State) : ∃ t, execLdVxK x s = .next t ∧ Effect s (.ldVxK x) t := by
  cases h : s.firstKey with
  | some k => exact ⟨_, execLdVxK_of_some x h, .regs _ _⟩
  | none => exact ⟨_, execLdVxK_of_none x h, .keyWait x⟩

theorem execRnd_effect (x : Reg) (kk : Byte) (s : State) : ∃ t, execRnd x kk s = .next t ∧ Effect s (.rnd x kk) t := by
  refine ⟨_, rfl, ?_⟩
  rw [s.consumeDraw_eq]
  exact .random x kk _ _ _

/-- ADD I leaves an address of memory in I (R304). -/
theorem clamp_index_le (k : Nat) : clamp k Config.fontBase (Config.memSize - 1) ≤ 0xFFF :=
  (clamp_bounds k (by decide)).2

/-- Every instruction ends in a next state, with an effect of its kind. -/
theorem exec_effect (i : Instr) (s : State) : ∃ t, exec i s = .next t ∧ Effect s i t := by
  cases i with
  | cls => exact ⟨_, rfl, .clear⟩
  | ret => exact execRet_effect s
  | jp nnn => exact execJp_effect nnn s
  | call nnn => exact execCall_effect nnn s
  | jpV0 nnn => exact ⟨_, rfl, .indexedJump nnn⟩
  | seImm | sneImm | seReg | sneReg | skp | sknp => exact ⟨_, rfl, s.skipIf_eq _ ▸ .skip _ _⟩
  | ldImm | addImm | ldReg | or | and | xor | addReg | sub | shr | subn | shl | ldVxDt => exact ⟨_, rfl, .regs _ _⟩
  | rnd x kk => exact execRnd_effect x kk s
  | ldI nnn => exact ⟨_, rfl, .index (.inl ⟨nnn, rfl⟩) (Nat.le_of_lt_succ nnn.isLt)⟩
  | addIVx x => exact ⟨_, rfl, .index (.inr ⟨x, .inl rfl⟩) (clamp_index_le _)⟩
  | ldFVx x => exact ⟨_, rfl, .index (.inr ⟨x, .inr rfl⟩) ((glyphAddr_lt _).le.trans (by decide))⟩
  | ldDtVx => exact ⟨_, rfl, .delay _ _⟩
  | ldStVx => exact ⟨_, rfl, .sound _ _⟩
  | drw x y n => exact execDrw_effect x y n s
  | ldVxK x => exact execLdVxK_effect x s
  | ldBVx x => exact s.storeAtI_effect (.inl ⟨x, rfl, bcdDigits_length _⟩) (by decide)
  | ldMemVx x => exact s.storeAtI_effect (.inr ⟨x, rfl, s.regsTo_length x⟩) (by decide)
  | ldVxMem x => exact execLdVxMem_effect x s

theorem effect_of_exec {i : Instr} {s t : State} (h : exec i s = .next t) : Effect s i t := by
  obtain ⟨u, hu, heff⟩ := exec_effect i s
  exact Host.Outcome.next.inj (h.symm.trans hu) ▸ heff

/-! ### What a step can do -/

/-- The state after a step: an invalid-opcode event, the overflow reset, or an instruction's effect and the end of its cycle (R152). -/
inductive StepEffect (s : State) : State → Prop
  /-- An invalid word below the limit (R341). -/
  | invalid (h : s.RaisesInvalid) (hn : s.invalidCount < 10) : StepEffect s (s.fetched.countInvalid.report .invalidOpcode)
  /-- An invalid word at the limit (R343). -/
  | escalation (h : s.RaisesInvalid) (hn : 10 ≤ s.invalidCount) :
      StepEffect s (s.fetched.countInvalid.fullReset.clearCount.report .invalidEscalation)
  /-- A full stack (R145). -/
  | overflow (h : 16 ≤ s.sp.val) : StepEffect s (s.fetched.raiseFullReset .stackOverflow)
  /-- An instruction, and then the counter and the timers (R148, R150, R151). -/
  | instr {i : Instr} {u : State} (hi : s.Dispatches i) (hu : Effect s.fetched i u) {n : Nat} (hn : n ≤ u.invalidCount) (d b : Byte) :
      StepEffect s { u with invalidCount := n, dt := d, st := b }

theorem step_effect (s : State) : ∃ t, step s = .next t ∧ StepEffect s t := by
  rcases step_cases s with ⟨h, hs⟩ | ⟨-, h, hs⟩ | ⟨i, hi, hs⟩
  · rcases Nat.lt_or_ge s.invalidCount 10 with hn | hn
    · exact ⟨_, hs.trans (congrArg _ (s.fetched.raiseInvalid_counts hn)), .invalid h hn⟩
    · exact ⟨_, hs.trans (congrArg _ (s.fetched.raiseInvalid_escalates hn)), .escalation h hn⟩
  · exact ⟨_, hs, .overflow h⟩
  · obtain ⟨u, hu, heff⟩ := exec_effect i s.fetched
    refine ⟨_, hs.trans (congrArg finishCycle hu), ?_⟩
    rw [u.endCycle_eq]
    exact .instr hi heff (by split <;> omega) _ _

theorem stepEffect_of_step {s t : State} (h : step s = .next t) : StepEffect s t := by
  obtain ⟨u, hu, heff⟩ := step_effect s
  exact Host.Outcome.next.inj (h.symm.trans hu) ▸ heff

/-- Settles O9: every effect is a next state. -/
theorem everyCycleEnds : Obligations.EveryCycleEnds := fun s => (step_effect s).imp fun _ h => h.1

/-! ### What an instruction writes -/

section

variable {s t : State} {i : Instr} (h : Effect s i t)
include h

theorem Effect.display : (t.fb = s.fb ∧ t.redraw = s.redraw) ∨ i = .cls ∨ ∃ x y n, i = .drw x y n := by
  cases h with
  | clear => exact .inr (.inl rfl)
  | draw x y n => exact .inr (.inr ⟨x, y, n, rfl⟩)
  | _ => exact .inl ⟨rfl, rfl⟩

theorem Effect.memory {a : Nat} (hne : t.readByte a ≠ s.readByte a) :
    a < 4096 ∧ s.i.toNat ≤ a ∧ ∃ x, (i = .ldBVx x ∧ a < s.i.toNat + 3) ∨ (i = .ldMemVx x ∧ a ≤ s.i.toNat + x.toNat) := by
  cases h with
  | @store _ bytes hi hfit =>
    have hin : s.i.toNat ≤ a ∧ a < s.i.toNat + bytes.length := by
      by_contra hout
      have hread : State.readByte { s with mem := (s.pokeBytes s.i.toNat bytes).mem } a = (s.pokeBytes s.i.toNat bytes).readByte a :=
        congrArg (State.readByte · a) (s.pokeBytes_eq s.i.toNat bytes).symm
      exact hne (hread.trans (s.readByte_pokeBytes_outside _ bytes hout))
    refine ⟨by omega, hin.1, ?_⟩
    rcases hi with ⟨x, rfl, hlen⟩ | ⟨x, rfl, hlen⟩
    · exact ⟨x, .inl ⟨rfl, by omega⟩⟩
    · exact ⟨x, .inr ⟨rfl, by omega⟩⟩
  | _ => exact absurd rfl hne

theorem Effect.i_eq : t.i = s.i ∨ ((∃ nnn, i = .ldI nnn) ∨ ∃ x, i = .addIVx x ∨ i = .ldFVx x) ∨
    (t.i = 0 ∧ (t.event = .stackOverflow ∨ t.event = .stackUnderflow)) := by
  cases h with
  | index hi => exact .inr (.inl hi)
  | fullReset _ hcause => exact .inr (.inr ⟨rfl, hcause⟩)
  | _ => exact .inl rfl

theorem Effect.host : t.keys = s.keys ∧ t.params = s.params ∧ (s.redraw = true → t.redraw = true) := by
  cases h with
  | clear => exact ⟨rfl, rfl, fun _ => Bool.or_true _⟩
  | draw => exact ⟨rfl, rfl, fun hr => (congrArg (· || _) hr).trans (Bool.true_or _)⟩
  | _ => exact ⟨rfl, rfl, id⟩

theorem Effect.count_opc : t.invalidCount = s.invalidCount ∧ t.opc = s.opc := by
  cases h <;> exact ⟨rfl, rfl⟩

theorem Effect.event_valid (hne : t.event ≠ s.event) : t.event ≠ .invalidOpcode ∧ t.event ≠ .invalidEscalation := by
  cases h with
  | fullReset _ hcause => rcases hcause with rfl | rfl <;> exact ⟨nofun, nofun⟩
  | rejected _ hcause => exact hcause
  | keyWait => exact ⟨nofun, nofun⟩
  | _ => exact absurd rfl hne

end

/-! ### What a step writes -/

/-- Settles O26: an invalid word and a full reset keep the display, and of the instructions CLS and DRW alone write it. -/
theorem onlyClsAndDrwWriteTheDisplay : Obligations.OnlyClsAndDrwWriteTheDisplay := by
  intro s t h hne
  rw [← not_and_or] at hne
  cases stepEffect_of_step h with
  | @instr i _ hi hu =>
    rcases hu.display with hsame | rfl | ⟨x, y, n, rfl⟩
    · exact absurd hsame hne
    · exact .inl hi
    · exact .inr ⟨x, y, n, hi⟩
  | _ => exact absurd ⟨rfl, rfl⟩ hne

/-- Settles O27: the events keep memory, and of the instructions the stores alone write it, at I. -/
theorem onlyStoresWriteMemory : Obligations.OnlyStoresWriteMemory := by
  intro s t a h hne
  cases stepEffect_of_step h with
  | @instr i _ hi hu =>
    obtain ⟨ha, hIa, x, ⟨rfl, hx⟩ | ⟨rfl, hx⟩⟩ := hu.memory (a := a) hne
    · exact ⟨ha, hIa, x, .inl ⟨hi, hx⟩⟩
    · exact ⟨ha, hIa, x, .inr ⟨hi, hx⟩⟩
  | _ => exact absurd rfl hne

/-- Settles O28: the events that write I are full resets. -/
theorem onlyIndexInstructionsAndResetsWriteI : Obligations.OnlyIndexInstructionsAndResetsWriteI := by
  intro s t h hne
  cases stepEffect_of_step h with
  | invalid => exact absurd rfl hne
  | escalation => exact .inr (.inr ⟨rfl, .inl rfl⟩)
  | overflow => exact .inr (.inr ⟨rfl, .inr (.inl rfl)⟩)
  | @instr i _ hi hu =>
    rcases hu.i_eq with hsame | (⟨nnn, rfl⟩ | ⟨x, rfl | rfl⟩) | ⟨h0, hev⟩
    · exact absurd hsame hne
    · exact .inl ⟨nnn, hi⟩
    · exact .inr (.inl ⟨x, .inl hi⟩)
    · exact .inr (.inl ⟨x, .inr hi⟩)
    · exact .inr (.inr ⟨h0, .inr hev⟩)

/-- Settles O29: no effect writes KEY or the parameters, and REDRAW is only ever set. -/
theorem coreNeverWritesTheHostsState : Obligations.CoreNeverWritesTheHostsState := by
  intro s t h
  cases stepEffect_of_step h with
  | instr _ hu => exact hu.host
  | _ => exact ⟨rfl, rfl, id⟩

/-- Settles O30: the counter and OPC are in no instruction's effect, and the codes an instruction reports are of other events. -/
theorem validInstructionsRaiseNoInvalidEvent : Obligations.ValidInstructionsRaiseNoInvalidEvent := by
  intro i s t h
  have heff := effect_of_exec h
  exact ⟨heff.count_opc.1, heff.count_opc.2, heff.event_valid⟩

end Sys2Proof.Machine
end

section
/-! PROOFS. The ranges that construction establishes and every step and transaction keeps (10_state.md R37, R39, R43, R45, R46, R70). -/

namespace Sys2Proof.Machine

/-! ### One effect -/

/-- From the range a fetch leaves PC in, every instruction but JP V0 leaves PC at 0x1002 or below. -/
theorem Effect.pc_le {s t : State} {i : Instr} (h : Effect s i t) (hL : s.Legal) (hlo : 0x202 ≤ s.pc.toNat)
    (hhi : s.pc.toNat ≤ 0x1000) : t.pc.toNat ≤ 0x1002 ∨ ∃ nnn, i = .jpV0 nnn ∧ t.pc.toNat ≤ 0x10FE := by
  cases h with
  | skip _ c =>
    refine .inl ?_
    dsimp only
    split
    · bv_omega
    · omega
  | jump _ nnn | call nnn => exact .inl ((State.setPc_addrOf_toNat _ nnn).trans_le (by omega))
  | indexedJump nnn =>
    refine .inr ⟨nnn, rfl, ?_⟩
    rw [State.setPc_pc, BitVec.toNat_ofNat, addrOf]
    omega
  | ret hsp =>
    refine .inl ?_
    rcases hL.stack_range ⟨s.sp.val - 1, by omega⟩ with h0 | ⟨-, hle⟩
    · exact (congrArg BitVec.toNat h0).trans_le (by decide)
    · exact hle.trans (by decide)
  | fullReset => exact .inl (show (0x200 : Word).toNat ≤ 0x1002 by decide)
  | keyWait =>
    refine .inl ?_
    rw [State.report_pc, State.rewind_pc]
    bv_omega
  | _ => exact .inl (hhi.trans (by decide))

/-! ### The parts of a step -/

/-- The entry address is a legal PC (R33, R37). -/
theorem entry_le : (0x200 : Word).toNat ≤ 0x10FE := by decide

theorem State.Legal.report {s : State} (hL : s.Legal) (e : Event) : (s.report e).Legal := { hL with }

theorem State.Legal.fullReset {s : State} (hL : s.Legal) : s.fullReset.Legal :=
  { hL with
    pc_le := entry_le
    i_le := Nat.zero_le _
    stack_range := fun k => .inl (by simp) }

/-- The stack a call leaves: its new entry is the PC after a fetch (R39). -/
theorem State.Legal.stack_push {s : State} (hL : s.Legal) (hlo : 0x202 ≤ s.pc.toNat) (hhi : s.pc.toNat ≤ 0x1000) {j : Nat}
    (hj : j < 16) (k : Fin 16) :
    (s.stack.set j s.pc hj)[k] = 0 ∨ (0x202 ≤ (s.stack.set j s.pc hj)[k].toNat ∧ (s.stack.set j s.pc hj)[k].toNat ≤ 0x1000) := by
  rw [Fin.getElem_fin, Vector.getElem_set]
  split
  · exact .inr ⟨hlo, hhi⟩
  · exact hL.stack_range k

/-- A store in bounds keeps memory's canonical form. -/
theorem State.Legal.mem_wf_pokeBytes {s : State} (hL : s.Legal) {a : Nat} {bytes : List Byte} (h : a + bytes.length ≤ 4096) :
    Memory.wf s.params (s.pokeBytes a bytes).mem = true :=
  s.wf_pokeBytes a bytes hL.mem_wf h

theorem Effect.legal {s t : State} {i : Instr} (h : Effect s i t) (hL : s.Legal) (hlo : 0x202 ≤ s.pc.toNat)
    (hhi : s.pc.toNat ≤ 0x1000) : t.Legal := by
  have hpc : t.pc.toNat ≤ 0x10FE := (h.pc_le hL hlo hhi).elim (le_trans · (by decide)) fun ⟨_, _, hle⟩ => hle
  cases h with
  | call nnn hsp => exact { hL with pc_le := hpc, stack_range := hL.stack_push hlo hhi hsp }
  | fullReset => exact hL.fullReset.report _
  | @index _ _ a ha => exact { hL with i_le := (Nat.mod_le a _).trans ha }
  | clear => exact { hL with pixel_bit := fun x y => .inl (pixelAt_blankFb x y) }
  | draw _ _ _ _ hdrawn => exact { hL with pixel_bit := hdrawn.pixel_bit hL.pixel_bit }
  | store _ hfit => exact { hL with mem_wf := hL.mem_wf_pokeBytes hfit }
  | _ => exact { hL with pc_le := hpc }

/-- PC after the fetch and the advance (R140, R142). -/
theorem State.fetched_pc_toNat (s : State) : s.fetched.pc.toNat = s.fetchAddr + 2 := by
  obtain ⟨-, hhi⟩ := s.fetchAddr_bounds
  exact Nat.mod_eq_of_lt (by omega)

/-- An instruction executes with PC in 0x202..0x1000 (R37, R142). -/
theorem State.fetched_pc_bounds (s : State) : 0x202 ≤ s.fetched.pc.toNat ∧ s.fetched.pc.toNat ≤ 0x1000 := by
  obtain ⟨hlo, hhi⟩ := s.fetchAddr_bounds
  rw [s.fetched_pc_toNat]
  omega

theorem State.Legal.fetched {s : State} (hL : s.Legal) : s.fetched.Legal :=
  { hL with pc_le := s.fetched_pc_bounds.2.trans (by decide) }

/-- Settles O22: the events set what they write to legal values, and every effect keeps the ranges from the state after the fetch. -/
theorem stepKeepsTheLegalRanges : Obligations.StepKeepsTheLegalRanges := by
  intro s t hL h
  have hF := hL.fetched
  obtain ⟨hlo, hhi⟩ := s.fetched_pc_bounds
  cases stepEffect_of_step h with
  | invalid _ hn => exact { hF with pc_le := entry_le, count_le := hn }
  | escalation => exact { hF.fullReset with count_le := Nat.zero_le _ }
  | overflow => exact hF.fullReset.report _
  | instr _ hu hn => exact { hu.legal hF hlo hhi with count_le := hn.trans (hu.legal hF hlo hhi).count_le }

/-- Settles O25: the events set PC to 0x200, and of the effects the indexed jump's alone can pass 0x1002. -/
theorem onlyIndexedJumpsLeavePcPastTheEnd : Obligations.OnlyIndexedJumpsLeavePcPastTheEnd := by
  intro s t hL h hpc
  obtain ⟨hlo, hhi⟩ := s.fetched_pc_bounds
  cases stepEffect_of_step h with
  | instr hi hu =>
    rcases hu.pc_le hL.fetched hlo hhi with hle | ⟨nnn, rfl, -⟩
    · exact absurd hpc hle.not_gt
    · exact ⟨nnn, hi⟩
  | _ => exact absurd hpc (show ¬0x1002 < (0x200 : Word).toNat by decide)

/-! ### Construction and the host -/

theorem State.construct_legal (p : Config.Params) : (State.construct p).Legal where
  pc_le := entry_le
  i_le := Nat.zero_le _
  stack_range k := .inl (by simp [State.construct])
  count_le := Nat.zero_le _
  pixel_bit x y := .inl (pixelAt_blankFb x y)
  mem_wf := Memory.wf_construct p

/-- Settles O23: every field that has a legal range is constructed at a value in it. -/
theorem constructionIsLegal : Obligations.ConstructionIsLegal := ⟨State.construct_legal _, State.construct_legal⟩

theorem State.Legal.load {s : State} (hL : s.Legal) (image : List Byte) : (s.load image).Legal := by
  have hfit : Config.progBase + (image.take Config.progMax).length ≤ 4096 := by simp; omega
  rw [State.load, State.pokeBytes_eq]
  exact { hL with mem_wf := hL.mem_wf_pokeBytes hfit }

/-- Settles O24: CYCLE is a step, and each other transaction writes fields without a range or writes values in theirs. -/
theorem transactionsKeepTheLegalRanges : Obligations.TransactionsKeepTheLegalRanges := by
  intro x s t r hL h
  cases x with
  | cycle draw =>
    obtain ⟨u, hu, -⟩ := step_effect (s.offerDraw draw)
    have hUt : u = t := by
      simp only [transact, hu] at h
      cases h
      rfl
    exact hUt ▸ stepKeepsTheLegalRanges (s.offerDraw draw) u { hL with } hu
  | construct => cases h; exact { State.construct_legal s.params with }
  | load image => cases h; exact hL.load image
  | reset => cases h; exact hL.fullReset
  | setKeys | readFb | clearRedraw => cases h; exact { hL with }

end Sys2Proof.Machine
end

section
/-! PROOFS. The cycle around an instruction, and the events that end it early (40_cycle.md R140 to R152, 60_exceptions.md R341 to
R362). -/

namespace Sys2Proof.Machine

/-! ### The three ends of a step, each with its condition -/

/-- The word raises the invalid-opcode event (R144, R147, R349). -/
theorem step_of_raisesInvalid {s : State} (h : s.RaisesInvalid) : step s = .next s.fetched.raiseInvalid := by
  rcases step_cases s with ⟨-, hs⟩ | ⟨hne, hsp, -⟩ | ⟨i, ⟨hd, -⟩, -⟩
  · exact hs
  · rcases h with hb | ⟨-, hlt⟩
    · exact absurd hb hne
    · exact absurd hlt (Nat.not_lt.mpr hsp)
  · rcases h with hb | ⟨hb, -⟩ <;> rw [hb] at hd <;> cases hd

/-- The stack is full, and the word passes check (b) (R145). -/
theorem step_of_full {s : State} (hsp : 16 ≤ s.sp.val) (hd : decode s.fetchedWord ≠ .invalid .fRange) :
    step s = .next (s.fetched.raiseFullReset .stackOverflow) := by
  rcases step_cases s with ⟨hb | ⟨-, hlt⟩, -⟩ | ⟨-, -, hs⟩ | ⟨i, ⟨-, hlt⟩, -⟩
  · exact absurd hb hd
  · exact absurd hlt (Nat.not_lt.mpr hsp)
  · exact hs
  · exact absurd hlt (Nat.not_lt.mpr hsp)

/-- The word dispatches to an instruction (R148). -/
theorem step_of_dispatches {s : State} {i : Instr} (h : s.Dispatches i) : step s = finishCycle (exec i s.fetched) := by
  obtain ⟨hd, hlt⟩ := h
  rcases step_cases s with ⟨hb, -⟩ | ⟨-, hsp, -⟩ | ⟨j, ⟨hj, -⟩, hs⟩
  · rcases hb with hb | ⟨hb, -⟩ <;> rw [hb] at hd <;> cases hd
  · exact absurd hlt (Nat.not_lt.mpr hsp)
  · obtain rfl : i = j := Decoded.instr.inj (hd.symm.trans hj)
    exact hs

/-- Settles O6: a cycle begins with the fetched state. -/
theorem cycleBeginsWithClampFetchAdvance : Obligations.CycleBeginsWithClampFetchAdvance :=
  fun s => ⟨s.fetched, s.fetchAddr, rfl, s.beginCycle_eq, s.fetched_pc_toNat, s.fetchedWord_toNat, rfl, s.fetched_sameBut⟩

/-- Settles O7: the word of the two bytes is the one fetched. -/
theorem stepRunsTheDecodedInstruction : Obligations.StepRunsTheDecodedInstruction :=
  fun s _ hd hsp => ⟨s.fetched_pc_toNat, step_of_dispatches ⟨hd, hsp⟩⟩

theorem step_of_dispatches_next {s u : State} {i : Instr} (h : s.Dispatches i) (hu : exec i s.fetched = .next u) :
    step s = .next u.endCycle :=
  (step_of_dispatches h).trans (congrArg finishCycle hu)

/-! ### The end of a cycle -/

theorem State.endCycle_dt_toNat (s : State) : s.endCycle.dt.toNat = s.dt.toNat - 1 := by
  rw [s.endCycle_eq]
  exact tick_toNat _

theorem State.endCycle_st_toNat (s : State) : s.endCycle.st.toNat = s.st.toNat - 1 := by
  rw [s.endCycle_eq]
  exact tick_toNat _

theorem State.endCycle_invalidCount (s : State) :
    s.endCycle.invalidCount = if s.params.invalidCountClearsOnValid then 0 else s.invalidCount := by
  rw [s.endCycle_eq]

/-- Settles O8: no instruction writes the parameters, so the end of the cycle reads the fetched state's. -/
theorem timersTickAfterEachInstruction : Obligations.TimersTickAfterEachInstruction := by
  intro s i u hi hu
  have hparams : u.params = s.params := (effect_of_exec hu).host.2.1
  refine ⟨_, step_of_dispatches_next hi hu, u.endCycle_dt_toNat, u.endCycle_st_toNat, ?count, u.endCycle_sameBut.mono (by decide)⟩
  rw [u.endCycle_invalidCount, hparams]

/-! ### Invalid words -/

theorem State.countInvalid_report_sameBut (s : State) (e : Event) :
    s.SameBut (s.countInvalid.report e) [.pc, .invalidCount, .event] :=
  s.countInvalid_sameBut.trans (s.countInvalid.report_sameBut e)

/-- Settles O11: the event counts, restarts and reports, from the state after the fetch. -/
theorem invalidWordRestartsAndCounts : Obligations.InvalidWordRestartsAndCounts := by
  intro s h hn
  rw [step_of_raisesInvalid h, s.fetched.raiseInvalid_counts hn]
  exact ⟨_, rfl, rfl, rfl, rfl, rfl, (s.fetched_sameBut.trans (s.fetched.countInvalid_report_sameBut _)).mono (by decide)⟩

/-- A full reset after changes that it undoes or that its frame leaves open. -/
theorem State.FullyReset.of_sameBut {s u t : State} {l also also' : List Field} (hsu : s.SameBut u l) (h : u.FullyReset t also)
    (hl : ∀ f ∈ l, f ∈ [.v, .stack, .sp, .pc, .i] ++ also') (hsub : ∀ f ∈ also, f ∈ also') : s.FullyReset t also' := by
  obtain ⟨hv, hstack, hsp, hpc, hi, hrest⟩ := h
  refine ⟨hv, hstack, hsp, hpc, hi, (hsu.trans hrest).mono fun f hf => ?_⟩
  rcases List.mem_append.mp hf with hf | hf
  · exact hl f hf
  · rcases List.mem_append.mp hf with hf | hf
    · exact List.mem_append_left _ hf
    · exact List.mem_append_right _ (hsub f hf)

/-- The escalation is a full reset, from the state after the fetch (R343). -/
theorem State.escalation_fullyReset (s : State) :
    s.FullyReset (s.fetched.countInvalid.fullReset.clearCount.report .invalidEscalation) [.opc, .event, .invalidCount] := by
  refine ⟨fun r => s.fetched.countInvalid.reg_fullReset r, fun k => by simp, rfl, rfl, rfl, ?_⟩
  have hcount := s.fetched_sameBut.trans s.fetched.countInvalid_sameBut
  have hreset := hcount.trans s.fetched.countInvalid.fullReset_sameBut
  have hclear := hreset.trans s.fetched.countInvalid.fullReset.clearCount_sameBut
  exact (hclear.trans (State.report_sameBut _ _)).mono (by decide)

/-- Settles O10: ten words count, and the next escalates. -/
theorem eleventhInvalidWordResets : Obligations.EleventhInvalidWordResets := by
  intro s h
  by_cases hn : s.invalidCount < 10
  case pos =>
    obtain ⟨t, hs, -, -, -, hcount, hsame⟩ := invalidWordRestartsAndCounts s h hn
    refine ⟨t, hs, ?_⟩
    rw [if_pos hn]
    exact ⟨hcount, hsame.mono (by decide)⟩
  case neg =>
    rw [step_of_raisesInvalid h, s.fetched.raiseInvalid_escalates (Nat.not_lt.mp hn)]
    refine ⟨_, rfl, ?_⟩
    rw [if_neg hn]
    exact ⟨rfl, rfl, s.escalation_fullyReset⟩

/-- Settles O12: the fetch writes nothing that the full reset's frame holds fixed but OPC and the event. -/
theorem fullStackResetsBeforeDispatch : Obligations.FullStackResetsBeforeDispatch := by
  intro s hsp hd
  refine ⟨_, step_of_full hsp.ge hd, rfl, ?_⟩
  exact (s.fetched.raiseFullReset_fullyReset _).of_sameBut s.fetched_sameBut (by decide) (by decide)

/-- Settles O13: such a word raises the event whatever SP is, and below the limit the event keeps SP. -/
theorem selectorRangeIsCheckedBeforeTheStack : Obligations.SelectorRangeIsCheckedBeforeTheStack := by
  intro s hF hKK hn
  have hraise : s.RaisesInvalid := .inl ((decode_eq_fRange_iff _).mpr ⟨hF, hKK⟩)
  obtain ⟨t, hs, -, hev, -, hcount, hsame⟩ := invalidWordRestartsAndCounts s hraise hn
  exact ⟨t, hs, hev, hsame .sp (by decide), hcount⟩

/-! ### Runs that stay where they are -/

/-- One field less in a frame, where it is the same after all. -/
theorem State.SameBut.of_sameIn {s t : State} {f : Field} {l l' : List Field} (h : s.SameBut t l) (hf : s.SameIn t f)
    (hl : ∀ g ∈ l, g = f ∨ g ∈ l') : s.SameBut t l' := by
  intro g hg
  by_cases hgl : g ∈ l
  · rcases hl g hgl with rfl | hg'
    · exact hf
    · exact absurd hg' hg
  · exact h g hgl

/-- With the same PC and the same memory, the same word is fetched. -/
theorem State.fetchedWord_congr {s t : State} (hpc : t.pc = s.pc) (hmem : ∀ a, t.readByte a = s.readByte a) :
    t.fetchedWord = s.fetchedWord := by
  have haddr : t.fetchAddr = s.fetchAddr := by rw [State.fetchAddr, hpc, State.fetchAddr]
  rw [State.fetchedWord, haddr, hmem, hmem, State.fetchedWord]

theorem raisesInvalid_of_invalid {s : State} (hd : ∃ why, decode s.fetchedWord = .invalid why) (hsp : s.sp.val < 16) :
    s.RaisesInvalid := by
  obtain ⟨why, hd⟩ := hd
  cases why with
  | fRange => exact .inl hd
  | selector => exact .inr ⟨hd, hsp⟩

section

variable {s : State} (hpc : s.pc = 0x200) (hsp : s.sp.val < 16) (hn : s.invalidCount = 0)
  (hd : ∃ why, decode s.fetchedWord = .invalid why)
include hsp hd

/-- A state that differs in OPC, the event and the counter alone raises the event again. -/
theorem raisesInvalid_of_sameBut {t : State} (h : s.SameBut t [.opc, .event, .invalidCount]) : t.RaisesInvalid := by
  have hsp' : t.sp = s.sp := h .sp (by decide)
  refine raisesInvalid_of_invalid ?_ (hsp' ▸ hsp)
  rwa [State.fetchedWord_congr (h .pc (by decide)) (h .mem (by decide))]

include hpc hn

/-- The first ten cycles on an invalid word at the entry address (R351). -/
theorem run_invalid_at_entry {k : Nat} (h1 : 1 ≤ k) (h10 : k ≤ 10) : ∃ t : State, Sys2Proof.core.run k s = .next t ∧ t.pc = 0x200 ∧
    t.event = .invalidOpcode ∧ t.invalidCount = k ∧ s.SameBut t [.opc, .event, .invalidCount] := by
  induction k, h1 using Nat.le_induction with
  | base =>
    obtain ⟨t, hs, hpct, hev, -, hcount, hsame⟩ := invalidWordRestartsAndCounts s (raisesInvalid_of_invalid hd hsp) (by omega)
    refine ⟨t, ?_, hpct, hev, by omega, hsame.of_sameIn (f := .pc) (hpct.trans hpc.symm) (by decide)⟩
    exact (run_succ_of_run (k := 0) rfl).trans hs
  | succ k h1 ih =>
    obtain ⟨t, hrun, hpct, -, hcount, hsame⟩ := ih (by omega)
    have hraise := raisesInvalid_of_sameBut hsp hd hsame
    obtain ⟨u, hs, hpcu, hev, -, hcountu, hsameu⟩ := invalidWordRestartsAndCounts t hraise (by omega)
    refine ⟨u, (run_succ_of_run hrun).trans hs, hpcu, hev, by omega, ?_⟩
    exact (hsame.trans hsameu).of_sameIn (f := .pc) (hpcu.trans hpc.symm) (by decide)

end

/-- Settles O14: the eleventh cycle finds the counter at ten. -/
theorem invalidWordAtEntryEscalatesEveryElevenCycles : Obligations.InvalidWordAtEntryEscalatesEveryElevenCycles := by
  intro s hpc hsp hn hd
  refine ⟨fun k h1 h10 => run_invalid_at_entry hpc hsp hn hd h1 h10, ?_⟩
  obtain ⟨t, hrun, -, -, hcount, hsame⟩ := run_invalid_at_entry hpc hsp hn hd (k := 10) (by decide) le_rfl
  obtain ⟨u, hs, hu⟩ := eleventhInvalidWordResets t (raisesInvalid_of_sameBut hsp hd hsame)
  rw [if_neg (by omega)] at hu
  obtain ⟨hcountu, hev, hreset⟩ := hu
  refine ⟨u, (run_succ_of_run hrun).trans hs, hev, hcountu, ?_⟩
  obtain ⟨hv, hstack, hspu, hpcu, hi, hrest⟩ :=
    hreset.of_sameBut (also' := [.opc, .event, .invalidCount]) hsame (by decide) (by decide)
  exact ⟨hv, hstack, hspu, hpcu, hi, hrest.of_sameIn (f := .invalidCount) (hcountu.trans hn.symm) (by decide)⟩

/-! ### The jump to itself -/

/-- What `n` cycles of the jump to itself leave: the timers run down, and nothing else moves (R362). -/
structure State.StoppedFor (s : State) (n : Nat) (t : State) : Prop where
  dt : t.dt.toNat = s.dt.toNat - n
  st : t.st.toNat = s.st.toNat - n
  opc : t.opc = s.fetchedWord
  event : t.event = .none
  count : t.invalidCount = if s.params.invalidCountClearsOnValid then 0 else s.invalidCount
  same : s.SameBut t [.dt, .st, .opc, .event, .invalidCount]

/-- The word fetched is a jump to the address it stands at. -/
def State.JumpsToSelf (s : State) (nnn : Addr) : Prop := s.pc.toNat = nnn.toNat ∧ s.Dispatches (.jp nnn)

section

variable {s t u : State} {n : Nat} {nnn : Addr}

theorem step_jumpsToSelf (hin : 0x200 ≤ nnn.toNat ∧ nnn.toNat < 0xFFE) (h : s.JumpsToSelf nnn) :
    ∃ t, step s = .next t ∧ s.StoppedFor 1 t := by
  obtain ⟨hpc, hi⟩ := h
  have hu : exec (.jp nnn) s.fetched = .next (s.fetched.setPc (addrOf nnn)) := execJp_of_mem hin s.fetched
  have hpcu : (s.fetched.setPc (addrOf nnn)).endCycle.pc = s.pc := by
    rw [State.endCycle_eq]
    exact BitVec.eq_of_toNat_eq ((s.fetched.setPc_addrOf_toNat nnn).trans hpc.symm)
  have hframe := (s.fetched_sameBut.trans (s.fetched.setPc_sameBut (addrOf nnn))).trans (State.endCycle_sameBut _)
  exact ⟨_, step_of_dispatches_next hi hu, State.endCycle_dt_toNat _, State.endCycle_st_toNat _,
    State.endCycle_sameBut _ .opc (by decide), State.endCycle_sameBut _ .event (by decide), State.endCycle_invalidCount _,
    hframe.of_sameIn (f := .pc) hpcu (by decide)⟩

theorem State.StoppedFor.jumpsToSelf (h : s.StoppedFor n t) (hs : s.JumpsToSelf nnn) : t.JumpsToSelf nnn := by
  obtain ⟨hpc, hd, hsp⟩ := hs
  have hpct : t.pc = s.pc := h.same .pc (by decide)
  have hspt : t.sp = s.sp := h.same .sp (by decide)
  refine ⟨hpct ▸ hpc, ?_, hspt ▸ hsp⟩
  rwa [State.fetchedWord_congr hpct (h.same .mem (by decide))]

theorem State.StoppedFor.succ (h : s.StoppedFor n t) (h1 : t.StoppedFor 1 u) : s.StoppedFor (n + 1) u where
  dt := by rw [h1.dt, h.dt, Nat.sub_sub]
  st := by rw [h1.st, h.st, Nat.sub_sub]
  opc := h1.opc.trans (State.fetchedWord_congr (h.same .pc (by decide)) (h.same .mem (by decide)))
  event := h1.event
  count := by
    have hparams : t.params = s.params := h.same .params (by decide)
    rw [h1.count, hparams, h.count]
    split <;> rfl
  same := (h.same.trans h1.same).mono (by decide)

end

/-- Settles O15: each cycle of the jump to itself leaves a state that jumps to itself. -/
theorem jumpToSelfOnlyRunsTheTimers : Obligations.JumpToSelfOnlyRunsTheTimers := by
  intro s nnn hlo hhi hpc hsp hd n h1
  have hself : s.JumpsToSelf nnn := ⟨hpc, hd, hsp⟩
  have hrun : ∃ t : State, Sys2Proof.core.run n s = .next t ∧ s.StoppedFor n t := by
    induction n, h1 using Nat.le_induction with
    | base =>
      obtain ⟨t, hs, ht⟩ := step_jumpsToSelf ⟨hlo, hhi⟩ hself
      exact ⟨t, (run_succ_of_run (k := 0) rfl).trans hs, ht⟩
    | succ n h1 ih =>
      obtain ⟨t, hrun, ht⟩ := ih
      obtain ⟨u, hs, hu⟩ := step_jumpsToSelf ⟨hlo, hhi⟩ (ht.jumpsToSelf hself)
      exact ⟨u, (run_succ_of_run hrun).trans hs, ht.succ hu⟩
  obtain ⟨t, ht, hdt, hst, hopc, hev, hcount, hsame⟩ := hrun
  exact ⟨t, ht, hdt, hst, hopc, hev, hcount, hsame⟩

end Sys2Proof.Machine
end

section
/-! PROOFS. What no step reads: ST, OPC, the event output and REDRAW in every cycle, and the random source in every cycle but RND's
(10_state.md R40 to R44, 43_random.md R240, 60_exceptions.md R348). -/

namespace Sys2Proof.Machine

/-- The state with other values in the fields that no instruction but RND reads: ST, REDRAW and the random source. -/
def State.withUnread (s : State) (st : Byte) (redraw : Bool) (draws : List Byte) (k : Nat) : State :=
  { s with st := st, redraw := redraw, draws := draws, freeDraws := k }

section

variable (s : State) (st : Byte) (redraw : Bool) (draws : List Byte) (k : Nat)

theorem State.pokeBytes_withUnread (a : Nat) (bytes : List Byte) :
    (s.withUnread st redraw draws k).pokeBytes a bytes = (s.pokeBytes a bytes).withUnread st redraw draws k := by
  induction bytes generalizing s a with
  | nil => rfl
  | cons b bs ih => exact ih (s.pokeByte a b) (a + 1)

/-- With other values in the unread fields, `f` makes of `s` the same state but for ST, REDRAW and the random source: it keeps the new
source, and where ST or REDRAW was not changed before `f`, it is not changed after it. -/
def IgnoresUnread (f : State → Result) : Prop :=
  ∃ t st' redraw', f s = .next t ∧ f (s.withUnread st redraw draws k) = .next (t.withUnread st' redraw' draws k) ∧
    (st = s.st → st' = t.st) ∧ (redraw = s.redraw → redraw' = t.redraw)

theorem skipIf_ignoresUnread (c : Bool) : IgnoresUnread s st redraw draws k fun s => .next (s.skipIf c) := by
  cases c <;> exact ⟨_, st, redraw, rfl, rfl, id, id⟩

theorem storeAtI_ignoresUnread (cause : Event) (bytes : List Byte) :
    IgnoresUnread s st redraw draws k fun s => s.storeAtI cause bytes := by
  rcases Nat.lt_or_ge 4096 (s.i.toNat + bytes.length) with h | h
  · exact ⟨_, st, redraw, s.storeAtI_oob _ _ h, State.storeAtI_oob _ _ _ h, id, id⟩
  · have hsame := s.pokeBytes_sameBut s.i.toNat bytes
    refine ⟨_, st, redraw, s.storeAtI_ok _ _ h, ?_, (·.trans (hsame .st (by decide)).symm),
      (·.trans (hsame .redraw (by decide)).symm)⟩
    rw [← State.pokeBytes_withUnread]
    exact State.storeAtI_ok _ _ _ h

theorem exec_ignoresUnread {i : Instr} (hi : ∀ x kk, i ≠ .rnd x kk) : IgnoresUnread s st redraw draws k (exec i) := by
  cases i with
  | rnd x kk => exact absurd rfl (hi x kk)
  | cls => exact ⟨_, st, _, rfl, rfl, id, fun h => congrArg (· || true) h⟩
  | ret =>
    by_cases h : s.sp.val = 0
    · exact ⟨_, st, redraw, execRet_of_empty h, execRet_of_empty h, id, id⟩
    · exact ⟨_, st, redraw, execRet_of_pos h, execRet_of_pos (s := s.withUnread st redraw draws k) h, id, id⟩
  | jp nnn =>
    by_cases h : 0x200 ≤ nnn.toNat ∧ nnn.toNat < 0xFFE
    · exact ⟨_, st, redraw, execJp_of_mem h s, execJp_of_mem h _, id, id⟩
    · exact ⟨_, st, redraw, execJp_of_not_mem h s, execJp_of_not_mem h _, id, id⟩
  | call nnn =>
    rcases Nat.lt_or_ge s.sp.val 16 with h | h
    · exact ⟨_, st, redraw, execCall_of_lt nnn h, execCall_of_lt (s := s.withUnread st redraw draws k) nnn h, id, id⟩
    · exact ⟨_, st, redraw, execCall_of_full nnn h, execCall_of_full nnn h, id, id⟩
  | drw x y n =>
    rcases Nat.lt_or_ge 4096 (s.i.toNat + n.toNat) with h | h
    · exact ⟨_, st, redraw, s.loadAtI_oob _ _ _ h, State.loadAtI_oob _ _ _ _ h, id, id⟩
    · exact ⟨_, st, _, s.loadAtI_ok _ _ _ h, State.loadAtI_ok _ _ _ _ h, id, fun h => congrArg (· || _) h⟩
  | ldVxK x =>
    cases h : s.firstKey with
    | some key => exact ⟨_, st, redraw, execLdVxK_of_some x h, execLdVxK_of_some x h, id, id⟩
    | none => exact ⟨_, st, redraw, execLdVxK_of_none x h, execLdVxK_of_none x h, id, id⟩
  | ldStVx x => exact ⟨_, _, redraw, rfl, rfl, fun _ => rfl, id⟩
  | ldBVx | ldMemVx => exact storeAtI_ignoresUnread s st redraw draws k _ _
  | ldVxMem x =>
    rcases Nat.lt_or_ge 4096 (s.i.toNat + (x.toNat + 1)) with h | h
    · exact ⟨_, st, redraw, s.loadAtI_oob _ _ _ h, State.loadAtI_oob _ _ _ _ h, id, id⟩
    · exact ⟨_, st, redraw, s.loadAtI_ok _ _ _ h, State.loadAtI_ok _ _ _ _ h, id, id⟩
  | seImm | sneImm | seReg | sneReg | skp | sknp => exact skipIf_ignoresUnread s st redraw draws k _
  | _ => exact ⟨_, st, redraw, rfl, rfl, id, id⟩

theorem raiseInvalid_ignoresUnread : IgnoresUnread s st redraw draws k fun s => .next s.raiseInvalid := by
  rcases Nat.lt_or_ge s.invalidCount 10 with h | h
  · exact ⟨_, st, redraw, congrArg _ (s.raiseInvalid_counts h), congrArg _ (State.raiseInvalid_counts _ h), id, id⟩
  · exact ⟨_, st, redraw, congrArg _ (s.raiseInvalid_escalates h), congrArg _ (State.raiseInvalid_escalates _ h), id, id⟩

theorem State.endCycle_withUnread :
    (s.withUnread st redraw draws k).endCycle = s.endCycle.withUnread (BitVec.ofNat 8 (st.toNat - 1)) redraw draws k := by
  rw [State.endCycle_eq, State.endCycle_eq]
  rfl

theorem State.endCycle_st_redraw : s.endCycle.st = BitVec.ofNat 8 (s.st.toNat - 1) ∧ s.endCycle.redraw = s.redraw := by
  rw [State.endCycle_eq]
  exact ⟨rfl, rfl⟩

variable {s st redraw draws k}

theorem IgnoresUnread.finishCycle {f : State → Result} (h : IgnoresUnread s st redraw draws k f) :
    IgnoresUnread s st redraw draws k fun s => finishCycle (f s) := by
  obtain ⟨t, st', redraw', hs, hu, hst, hredraw⟩ := h
  obtain ⟨hst', hredraw'⟩ := t.endCycle_st_redraw
  refine ⟨t.endCycle, BitVec.ofNat 8 (st'.toNat - 1), redraw', congrArg Machine.finishCycle hs, ?_, fun h => ?_,
    fun h => (hredraw h).trans hredraw'.symm⟩
  · exact (congrArg Machine.finishCycle hu).trans (congrArg _ (t.endCycle_withUnread _ _ _ _))
  · rw [hst', hst h]

end

/-- A cycle that does not dispatch RND, from two states that the fetch leaves different in the unread fields alone; they may differ in
OPC and the event output before it, which the fetch writes (R141, R348). -/
theorem step_ignoresUnread {s u : State} {st : Byte} {redraw : Bool} {draws : List Byte} {k : Nat}
    (hrnd : ∀ x kk, ¬s.Dispatches (.rnd x kk)) (hword : u.fetchedWord = s.fetchedWord) (hsp : u.sp = s.sp)
    (hu : u.fetched = s.fetched.withUnread st redraw draws k) : ∃ t st' redraw', step s = .next t ∧
      step u = .next (t.withUnread st' redraw' draws k) ∧ (st = s.st → st' = t.st) ∧ (redraw = s.redraw → redraw' = t.redraw) := by
  rcases step_cases s with ⟨h, hs⟩ | ⟨hd, hfull, hs⟩ | ⟨i, hi, hs⟩
  · have hraise : u.RaisesInvalid := by rwa [State.RaisesInvalid, hword, hsp]
    obtain ⟨t, st', redraw', ht, htu, hkept⟩ := raiseInvalid_ignoresUnread s.fetched st redraw draws k
    rw [step_of_raisesInvalid hraise, hu]
    exact ⟨t, st', redraw', hs.trans ht, htu, hkept⟩
  · rw [step_of_full (s := u) (hsp ▸ hfull) (hword ▸ hd), hu]
    exact ⟨_, st, redraw, hs, rfl, id, id⟩
  · have hne : ∀ x kk, i ≠ .rnd x kk := by
      rintro x kk rfl
      exact hrnd x kk hi
    have hdisp : u.Dispatches i := by rwa [State.Dispatches, hword, hsp]
    obtain ⟨t, st', redraw', ht, htu, hkept⟩ := (exec_ignoresUnread s.fetched st redraw draws k hne).finishCycle
    rw [step_of_dispatches hdisp, hu]
    exact ⟨t, st', redraw', hs.trans ht, htu, hkept⟩

/-- Settles O32: with ST and REDRAW as they were, a cycle that is not RND's makes the same of any random source. -/
theorem onlyRndUsesTheRandomSource : Obligations.OnlyRndUsesTheRandomSource := by
  intro s t draws k hrnd h
  let u : State := { s with draws := draws, freeDraws := k }
  obtain ⟨t', st', redraw', ht, hu, hst, hredraw⟩ :=
    step_ignoresUnread (u := u) (st := s.st) (redraw := s.redraw) hrnd rfl rfl rfl
  obtain rfl : t' = t := Host.Outcome.next.inj (ht.symm.trans h)
  rw [hst rfl, hredraw rfl] at hu
  exact hu

/-- A cycle that does not dispatch RND keeps the random source: run with the values it has, it leaves those values. -/
theorem step_keeps_source {s t : State} (hrnd : ∀ x kk, ¬s.Dispatches (.rnd x kk)) (h : step s = .next t) :
    t.draws = s.draws ∧ t.freeDraws = s.freeDraws := by
  have hsame := Host.Outcome.next.inj (h.symm.trans (onlyRndUsesTheRandomSource s t s.draws s.freeDraws hrnd h))
  rw [hsame]
  exact ⟨rfl, rfl⟩

/-- RND draws the same, whatever ST and REDRAW are (R241). -/
theorem State.consumeDraw_withUnread (s : State) (st : Byte) (redraw : Bool) :
    (s.withUnread st redraw s.draws s.freeDraws).consumeDraw =
      s.consumeDraw.withUnread st redraw s.consumeDraw.draws s.consumeDraw.freeDraws := by
  cases h : s.draws <;> simp [State.consumeDraw, State.withUnread, h]

theorem execRnd_withUnread {s t : State} {x : Reg} {kk : Byte} (st : Byte) (redraw : Bool) (h : exec (.rnd x kk) s = .next t) :
    exec (.rnd x kk) (s.withUnread st redraw s.draws s.freeDraws) = .next (t.withUnread st redraw t.draws t.freeDraws) := by
  cases h
  rw [exec_rnd, execRnd, State.consumeDraw_withUnread]
  rfl

/-- RND's cycle, from two states that the fetch leaves different in ST and REDRAW alone. -/
theorem step_rnd_ignoresOutputs {s u : State} {x : Reg} {kk : Byte} {st : Byte} {redraw : Bool} (hi : s.Dispatches (.rnd x kk))
    (hiu : u.Dispatches (.rnd x kk)) (hu : u.fetched = s.fetched.withUnread st redraw s.draws s.freeDraws) :
    ∃ t st' redraw', step s = .next t ∧ step u = .next (t.withUnread st' redraw' t.draws t.freeDraws) := by
  obtain ⟨t, ht, -⟩ := exec_effect (.rnd x kk) s.fetched
  have htu : exec (.rnd x kk) u.fetched = .next (t.withUnread st redraw t.draws t.freeDraws) := by
    rw [hu]
    exact execRnd_withUnread st redraw ht
  have hdraws : t.endCycle.draws = t.draws := t.endCycle_sameBut .draws (by decide)
  have hfree : t.endCycle.freeDraws = t.freeDraws := t.endCycle_sameBut .freeDraws (by decide)
  refine ⟨t.endCycle, BitVec.ofNat 8 (st.toNat - 1), redraw, step_of_dispatches_next hi ht, ?_⟩
  rw [step_of_dispatches_next hiu htu, State.endCycle_withUnread, hdraws, hfree]

/-- Settles O31: RND's cycle draws the same byte, and every other one ignores the random source too. -/
theorem outputsDoNotFeedBack : Obligations.OutputsDoNotFeedBack := by
  intro s t st opc event redraw h
  let u : State := { s with st := st, opc := opc, event := event, redraw := redraw }
  show ∃ st' redraw', step u = .next (t.withUnread st' redraw' t.draws t.freeDraws)
  by_cases hrnd : ∃ x kk, s.Dispatches (.rnd x kk)
  case pos =>
    obtain ⟨x, kk, hi⟩ := hrnd
    obtain ⟨t', st', redraw', ht, hu⟩ := step_rnd_ignoresOutputs (u := u) hi hi rfl
    obtain rfl : t' = t := Host.Outcome.next.inj (ht.symm.trans h)
    exact ⟨st', redraw', hu⟩
  case neg =>
    have hnone : ∀ x kk, ¬s.Dispatches (.rnd x kk) := fun x kk hi => hrnd ⟨x, kk, hi⟩
    obtain ⟨t', st', redraw', ht, hu, -, -⟩ := step_ignoresUnread (u := u) (draws := s.draws) (k := s.freeDraws) hnone rfl rfl rfl
    obtain rfl : t' = t := Host.Outcome.next.inj (ht.symm.trans h)
    obtain ⟨hdraws, hfree⟩ := step_keeps_source hnone h
    rw [hdraws, hfree]
    exact ⟨st', redraw', hu⟩

end Sys2Proof.Machine
end

section
/-! PROOFS. The control-flow, arithmetic, logic, random and key instructions, each on its own (41_control_flow.md, 42_arith_logic.md,
43_random.md, 45_keys.md). -/

namespace Sys2Proof.Machine

/-! ### Control flow -/

theorem State.called_sameBut (s : State) (h : s.sp.val < 16) (nnn : Addr) :
    s.SameBut (s.called h nnn) [.pc, .sp, .stack] := by
  intro f hf
  cases f
  case pc | sp | stack => simp at hf
  case mem => exact State.readByte_congr rfl rfl
  all_goals rfl

/-- Settles O34: with room the return address goes into the entry at SP, and a full stack is a full reset. -/
theorem callPushesAndJumps : Obligations.CallPushesAndJumps := by
  intro s nnn
  refine ⟨fun h => ?room, fun h => ?full⟩
  case room =>
    refine ⟨_, (exec_call s nnn).trans (execCall_of_lt nnn h), State.setPc_addrOf_toNat _ nnn, rfl, Vector.getElem_set_self _,
      fun k hk => Vector.getElem_set_ne h k.isLt (Ne.symm hk), s.called_sameBut h nnn⟩
  case full =>
    exact ⟨_, (exec_call s nnn).trans (execCall_of_full nnn h.ge), rfl, s.raiseFullReset_fullyReset _⟩

theorem State.returned_sameBut (s : State) : s.SameBut s.returned [.sp, .pc] := by
  intro f hf
  cases f
  case sp | pc => simp at hf
  case mem => exact State.readByte_congr rfl rfl
  all_goals rfl

/-- Settles O35: the pop reads the entry below SP, and an empty stack is a full reset. -/
theorem retPopsOrResets : Obligations.RetPopsOrResets := by
  intro s
  refine ⟨fun h => ?pops, fun h => ?empty⟩
  case pops => exact ⟨_, (exec_ret s).trans (execRet_of_pos h.ne'), rfl, rfl, s.returned_sameBut⟩
  case empty => exact ⟨_, (exec_ret s).trans (execRet_of_empty h), rfl, s.raiseFullReset_fullyReset _⟩

/-- Settles O36: what a call pushes is what the return pops. -/
theorem retReturnsToTheCaller : Obligations.RetReturnsToTheCaller := by
  intro s nnn h
  obtain ⟨t, ht, -, hspt, hentry, hothers, hsamet⟩ := (callPushesAndJumps s nnn).1 h
  obtain ⟨u, hu, hspu, hpcu, hsameu⟩ := (retPopsOrResets t).1 (by omega)
  have hstack : u.stack = t.stack := hsameu .stack (by decide)
  have hsp : u.sp = s.sp := Fin.ext (by omega)
  have hpc : u.pc = s.pc := by
    simp only [hspt, Nat.add_sub_cancel] at hpcu
    exact hpcu.trans hentry
  refine ⟨t, u, ht, hu, ?_, ?_, ?_⟩
  · simp only [hstack, hentry]
  · simpa only [hstack] using hothers
  · exact ((hsamet.trans hsameu).of_sameIn (f := .pc) (l' := [.sp, .stack]) hpc (by decide)).of_sameIn (f := .sp) hsp (by decide)

/-- Settles O37: an address and a byte add up below 2^16. -/
theorem jpV0AddsWithoutWrap : Obligations.JpV0AddsWithoutWrap := by
  intro s nnn
  refine ⟨_, exec_jpV0 s nnn, ?_, s.setPc_sameBut _⟩
  have hnnn := nnn.isLt
  have hv0 := (s.reg 0#4).isLt
  exact Nat.mod_eq_of_lt (show nnn.toNat + (s.reg 0#4).toNat < 2 ^ 16 by omega)

/-- Settles O38: each skip with an immediate is a skip on its comparison. -/
theorem immediateSkips : Obligations.ImmediateSkips :=
  fun s x kk => ⟨⟨_, exec_seImm s x kk, s.skipIf_beq_pc _ _, s.skipIf_sameBut _⟩,
    ⟨_, exec_sneImm s x kk, s.skipIf_bne_pc _ _, s.skipIf_sameBut _⟩⟩

/-! ### Arithmetic, logic and random -/

/-- Settles O40: each is one register write. -/
theorem immediateLoadAndAdd : Obligations.ImmediateLoadAndAdd := by
  intro s x kk
  refine ⟨⟨_, exec_ldImm s x kk, s.reg_setReg_same x kk, s.setReg_regsSameBut x _, s.setReg_sameBut x _⟩,
    ⟨_, exec_addImm s x kk, ?_, s.setReg_regsSameBut x _, s.setReg_sameBut x _⟩⟩
  rw [s.reg_setReg_same, sumByte_toNat]

/-- Settles O42: each is one register write, of the bitwise result. -/
theorem logicIsBitwise : Obligations.LogicIsBitwise := by
  intro s x y
  refine ⟨⟨_, exec_or s x y, fun k => ?_, s.setReg_regsSameBut x _, s.setReg_sameBut x _⟩,
    ⟨_, exec_and s x y, fun k => ?_, s.setReg_regsSameBut x _, s.setReg_sameBut x _⟩,
    ⟨_, exec_xor s x y, fun k => ?_, s.setReg_regsSameBut x _, s.setReg_sameBut x _⟩⟩
  · rw [s.reg_setReg_same, BitVec.getLsbD_or]
  · rw [s.reg_setReg_same, BitVec.getLsbD_and]
  · rw [s.reg_setReg_same, BitVec.getLsbD_xor]

/-- The difference is the exact one, mod 256, borrow or not (R209, R211). -/
theorem diffByte_toNat (a b : Byte) : ((diffByte a b).toNat : Int) = (a.toNat - b.toNat : Int) % 256 := by
  have ha := a.isLt
  have hb := b.isLt
  rw [diffByte, BitVec.toNat_ofNat]
  omega

theorem noBorrowFlag_eq (a b : Byte) : noBorrowFlag a b = if a.toNat ≥ b.toNat then 1#8 else 0#8 :=
  if_congr decide_eq_true_iff rfl rfl

/-- Settles O44: both instructions write the flag and then the difference, of their operands in either order. -/
theorem subtractSetsNoBorrowThenResult : Obligations.SubtractSetsNoBorrowThenResult := by
  intro s x y
  refine ⟨⟨_, exec_sub s x y, ?_, fun hx => ?_, s.setFlagThen_regsSameBut x _ _, s.setFlagThen_sameBut x _ _⟩,
    ⟨_, exec_subn s x y, ?_, fun hx => ?_, s.setFlagThen_regsSameBut x _ _, s.setFlagThen_sameBut x _ _⟩⟩
  · rw [s.reg_setFlagThen_result, diffByte_toNat]
  · rw [s.reg_setFlagThen_flag _ _ hx, noBorrowFlag_eq]
  · rw [s.reg_setFlagThen_result, diffByte_toNat]
  · rw [s.reg_setFlagThen_flag _ _ hx, noBorrowFlag_eq]

theorem shrByte_toNat (a : Byte) : (shrByte a).toNat = a.toNat / 2 := by
  have := a.isLt
  rw [shrByte, BitVec.toNat_ofNat]
  omega

theorem shlByte_toNat (a : Byte) : (shlByte a).toNat = a.toNat * 2 % 256 := by
  rw [shlByte, BitVec.toNat_ofNat]
  exact Nat.mod_mod _ 256

theorem flagOf_toNat (c : Bool) : (flagOf c).toNat = c.toNat := by
  cases c <;> rfl

theorem shrFlag_toNat (a : Byte) : (shrFlag a).toNat = a.toNat % 2 := by
  rw [shrFlag, flagOf_toNat, BitVec.getLsbD, Nat.toNat_testBit, Nat.pow_zero, Nat.div_one]

theorem shlFlag_toNat (a : Byte) : (shlFlag a).toNat = a.toNat / 128 := by
  have := a.isLt
  rw [shlFlag, flagOf_toNat, BitVec.getLsbD, Nat.toNat_testBit]
  omega

/-- Settles O45: each writes the bit moved out and then the shifted byte, of V[x] alone. -/
theorem shiftsMoveOneBitIntoTheFlag : Obligations.ShiftsMoveOneBitIntoTheFlag := by
  intro s x y
  refine ⟨⟨_, exec_shr s x y, ?_, fun hx => ?_, s.setFlagThen_regsSameBut x _ _, s.setFlagThen_sameBut x _ _⟩,
    ⟨_, exec_shl s x y, ?_, fun hx => ?_, s.setFlagThen_regsSameBut x _ _, s.setFlagThen_sameBut x _ _⟩⟩
  · rw [s.reg_setFlagThen_result, shrByte_toNat]
  · rw [s.reg_setFlagThen_flag _ _ hx, shrFlag_toNat]
  · rw [s.reg_setFlagThen_result, shlByte_toNat]
  · rw [s.reg_setFlagThen_flag _ _ hx, shlFlag_toNat]

theorem State.consumeDraw_of_cons {s : State} {b : Byte} {rest : List Byte} (h : s.draws = b :: rest) :
    s.rand = b ∧ s.consumeDraw = { s with draws := rest } := by
  rw [State.rand, State.consumeDraw, h]
  exact ⟨rfl, rfl⟩

theorem State.consumeDraw_of_nil {s : State} (h : s.draws = []) :
    s.rand = Config.freeDraw s.freeDraws ∧ s.consumeDraw = { s with freeDraws := s.freeDraws + 1 } := by
  rw [State.rand, State.consumeDraw, h]
  exact ⟨rfl, rfl⟩

/-- RND writes V[x] and the source (R241). -/
theorem rnd_sameBut (s : State) (x : Reg) (b : Byte) : s.SameBut (s.consumeDraw.setReg x b) [.draws, .freeDraws, .v] :=
  s.consumeDraw_sameBut.trans (s.consumeDraw.setReg_sameBut x b)

/-- Settles O46: of the source's two fields, the draw writes the one it takes its byte from. -/
theorem rndMasksOneDraw : Obligations.RndMasksOneDraw := by
  intro s x kk
  refine ⟨fun b rest hb => ?waiting, fun hnone => ?free⟩
  case waiting =>
    obtain ⟨hrand, hsource⟩ := State.consumeDraw_of_cons hb
    have hframe := rnd_sameBut s x (b &&& kk)
    rw [hsource] at hframe
    refine ⟨State.setReg { s with draws := rest } x (b &&& kk), ?_, State.reg_setReg_same _ x _, rfl,
      State.setReg_regsSameBut _ x _, hframe.of_sameIn (f := .freeDraws) rfl (by decide)⟩
    rw [exec_rnd, execRnd, hrand, hsource]
  case free =>
    obtain ⟨hrand, hsource⟩ := State.consumeDraw_of_nil hnone
    have hframe := rnd_sameBut s x (Config.freeDraw s.freeDraws &&& kk)
    rw [hsource] at hframe
    refine ⟨State.setReg { s with freeDraws := s.freeDraws + 1 } x (Config.freeDraw s.freeDraws &&& kk), ?_,
      State.reg_setReg_same _ x _, fun k hk => ?_, rfl, State.setReg_regsSameBut _ x _,
      hframe.of_sameIn (f := .draws) rfl (by decide)⟩
    · rw [exec_rnd, execRnd, hrand, hsource]
    · rw [State.reg_setReg_same, BitVec.getLsbD_and, hk, Bool.and_false]

/-! ### Keys -/

/-- Settles O50: both skips test what the register names, a key that is down or none. -/
theorem keySkips : Obligations.KeySkips := by
  intro s x down hdown
  have hpressed : s.pressed (s.reg x) = down := by
    rw [State.pressed, State.keyDown]
    split at hdown <;> rename_i hlt
    · rw [dif_pos hlt, hdown]
    · rw [dif_neg hlt, hdown]
  refine ⟨⟨_, exec_skp s x, ?_, s.skipIf_sameBut _⟩, ⟨_, exec_sknp s x, ?_, s.skipIf_sameBut _⟩⟩
  · rw [s.skipIf_pc, hpressed]
  · rw [s.skipIf_pc, hpressed]
    cases down <;> rfl

theorem State.keyDown_of_lt (s : State) (k : Fin 16) : s.keyDown k.val = s.keys[k] := dif_pos k.isLt

/-- The lowest key down is found (R283). -/
theorem State.firstKey_eq_some {s : State} {k : Fin 16} (hk : s.keys[k] = true) (hlow : ∀ j : Fin 16, j < k → s.keys[j] = false) :
    s.firstKey = some k.val := by
  cases h : s.firstKey with
  | none =>
    have := State.firstKey_none h k.val
    rw [s.keyDown_of_lt, hk] at this
    cases this
  | some j =>
    obtain ⟨hj, hdown, hbelow⟩ := State.firstKey_some h
    rcases lt_trichotomy j k.val with hlt | heq | hgt
    · have hup : s.keyDown j = false := (s.keyDown_of_lt ⟨j, hj⟩).trans (hlow ⟨j, hj⟩ hlt)
      rw [hup] at hdown
      cases hdown
    · rw [heq]
    · have hup := hbelow k.val hgt
      rw [s.keyDown_of_lt, hk] at hup
      cases hup

theorem State.firstKey_eq_none {s : State} (h : ∀ j : Fin 16, s.keys[j] = false) : s.firstKey = none := by
  cases hk : s.firstKey with
  | none => rfl
  | some k =>
    obtain ⟨hlt, hdown, -⟩ := State.firstKey_some hk
    have hup : s.keyDown k = false := (s.keyDown_of_lt ⟨k, hlt⟩).trans (h ⟨k, hlt⟩)
    rw [hup] at hdown
    cases hdown

/-- Settles O51: the lowest key down is the one found; with none the rewind takes back the advance, and the cycle ends as any other. -/
theorem keyWaitTakesTheLowestKeyOrRewinds : Obligations.KeyWaitTakesTheLowestKeyOrRewinds := by
  intro s x
  refine ⟨?decodes, fun k hk hlow => ?found, fun hnone => ⟨?waits, fun hi => ?cycle⟩⟩
  case decodes =>
    rintro w hF hKK rfl
    refine decode_eq_instr_iff.mpr ⟨?_, rfl⟩
    rw [Instr.OnRow, rowOf, and_mask_fkk, hF, hKK]
    rfl
  case found =>
    refine ⟨_, (exec_ldVxK s x).trans (execLdVxK_of_some x (State.firstKey_eq_some hk hlow)), ?_, s.setReg_regsSameBut x _,
      s.setReg_sameBut x _⟩
    rw [s.reg_setReg_same]
    exact Nat.mod_eq_of_lt (k.isLt.trans (by decide))
  case waits =>
    exact ⟨_, (exec_ldVxK s x).trans (execLdVxK_of_none x (State.firstKey_eq_none hnone)), rfl, rfl,
      s.rewind_sameBut.trans (s.rewind.report_sameBut _)⟩
  case cycle =>
    have hexec : exec (.ldVxK x) s.fetched = .next (s.fetched.rewind.report .keyWait) :=
      execLdVxK_of_none x (State.firstKey_eq_none (s := s.fetched) hnone)
    refine ⟨_, step_of_dispatches_next hi hexec, ?_, State.endCycle_dt_toNat _, State.endCycle_st_toNat _⟩
    have hpc := s.fetched_pc_toNat
    rw [State.endCycle_eq, State.report_pc, State.rewind_pc]
    bv_omega

end Sys2Proof.Machine
end

section
/-! PROOFS. The index, timer and memory instructions, each on its own (20_memory.md R76, 46_memory_timer.md R300 to R308). -/

namespace Sys2Proof.Machine

/-! ### The index register and the timers -/

theorem clamp_eq_ite (k : Nat) {lo hi : Nat} (h : lo ≤ hi) :
    clamp k lo hi = if k < lo then lo else if hi < k then hi else k := by
  unfold clamp
  split
  · omega
  · split <;> omega

/-- Settles O52: either address fits in I, and the clamp is the statement's two comparisons. -/
theorem indexLoadAndSaturatingAdd : Obligations.IndexLoadAndSaturatingAdd := by
  intro s nnn x
  refine ⟨⟨_, exec_ldI s nnn, s.setI_toNat (nnn.isLt.trans (by decide)), s.setI_sameBut _⟩,
    ⟨_, exec_addIVx s x, ?_, s.setI_sameBut _⟩⟩
  rw [s.setI_toNat ((clamp_index_le _).trans_lt (by decide)), clamp_eq_ite _ (by decide)]
  rfl

/-- Settles O54: each is one write. -/
theorem timerTransfers : Obligations.TimerTransfers :=
  fun s x => ⟨⟨_, exec_ldVxDt s x, s.reg_setReg_same x _, s.setReg_regsSameBut x _, s.setReg_sameBut x _⟩,
    ⟨_, exec_ldDtVx s x, rfl, s.setDt_sameBut _⟩, ⟨_, exec_ldStVx s x, rfl, s.setSt_sameBut _⟩⟩

theorem State.endCycle_reg (s : State) (x : Reg) : s.endCycle.reg x = s.reg x :=
  State.reg_congr (s.endCycle_sameBut .v (by decide)) x

/-- Settles O55: the end of the cycle comes after the instruction's transfer. -/
theorem writtenTimerLosesOneInItsCycle : Obligations.WrittenTimerLosesOneInItsCycle := by
  intro s x
  refine ⟨fun hi => ⟨_, step_of_dispatches_next hi (exec_ldVxDt _ x), ?_, State.endCycle_dt_toNat _⟩,
    fun hi => ⟨_, step_of_dispatches_next hi (exec_ldDtVx _ x), State.endCycle_dt_toNat _⟩,
    fun hi => ⟨_, step_of_dispatches_next hi (exec_ldStVx _ x), State.endCycle_st_toNat _⟩⟩
  rw [State.endCycle_reg, State.reg_setReg_same]
  rfl

/-! ### Stores -/

theorem toNat_ofNat_of_lt {k : Nat} (h : k < 256) : (BitVec.ofNat 8 k).toNat = k := Nat.mod_eq_of_lt h

/-- Settles O56: the store's three bytes are the digits, each below 256. -/
theorem bcdStoresThreeDigits : Obligations.BcdStoresThreeDigits := by
  intro s x h
  have hdigit (j : Nat) (hj : j < 3) := s.readByte_pokeBytes_inside s.i.toNat (bcdDigits (s.reg x)) hj
  have hk := (s.reg x).isLt
  refine ⟨_, (exec_ldBVx s x).trans (s.storeAtI_ok _ _ h), ?hundreds, ?tens, ?ones, s.pokeBytes_bytesSameOutside _ _,
    s.pokeBytes_sameBut _ _⟩
  case hundreds => exact (congrArg BitVec.toNat (hdigit 0 (by decide))).trans (toNat_ofNat_of_lt (by omega))
  case tens => exact (congrArg BitVec.toNat (hdigit 1 (by decide))).trans (toNat_ofNat_of_lt (by omega))
  case ones => exact (congrArg BitVec.toNat (hdigit 2 (by decide))).trans (toNat_ofNat_of_lt (by omega))

/-- Byte `r` of the block V[0..x] is V[r] (R307). -/
theorem State.readByte_regsTo (s : State) (a : Nat) {r x : Reg} (h : r.toNat ≤ x.toNat) :
    (s.pokeBytes a (s.regsTo x)).readByte (a + r.toNat) = s.reg r := by
  have hlt : r.toNat < (s.regsTo x).length := by rw [s.regsTo_length]; omega
  rw [s.readByte_pokeBytes_inside a _ hlt, s.regsTo_getElem x hlt, BitVec.ofNat_toNat, BitVec.setWidth_eq]

theorem execLdMemVx_of_le {s : State} {x : Reg} (h : s.i.toNat + x.toNat + 1 ≤ 4096) :
    execLdMemVx x s = .next (s.pokeBytes s.i.toNat (s.regsTo x)) :=
  s.storeAtI_ok _ _ (by rw [s.regsTo_length]; omega)

/-- Settles O57: the store's bytes are V[0..x]. -/
theorem blockStore : Obligations.BlockStore := by
  intro s x h
  have hframe := s.pokeBytes_bytesSameOutside s.i.toNat (s.regsTo x)
  rw [s.regsTo_length] at hframe
  exact ⟨_, (exec_ldMemVx s x).trans (execLdMemVx_of_le h), fun r hr => s.readByte_regsTo _ hr, hframe, s.pokeBytes_sameBut _ _⟩

/-! ### Loads -/

/-- A register that a load of V[0], V[1], ... reaches (R308). -/
theorem State.reg_setRegsFrom0_of_lt (s : State) {bytes : List Byte} {r : Reg} (h : r.toNat < bytes.length) :
    (s.setRegsFrom0 bytes).reg r = bytes[r.toNat] := by
  have hin : 0 ≤ r.toNat ∧ r.toNat < 0 + bytes.length := by omega
  exact (loadRegs_getElem s.v 0 bytes r.isLt).trans (dif_pos hin)

/-- A register past the bytes loaded. -/
theorem State.reg_setRegsFrom0_of_le (s : State) {bytes : List Byte} {r : Reg} (h : bytes.length ≤ r.toNat) :
    (s.setRegsFrom0 bytes).reg r = s.reg r := by
  have hout : ¬(0 ≤ r.toNat ∧ r.toNat < 0 + bytes.length) := by omega
  exact (loadRegs_getElem s.v 0 bytes r.isLt).trans (dif_neg hout)

/-- Settles O58: the load reads x + 1 bytes, one for each of V[0..x]. -/
theorem blockLoad : Obligations.BlockLoad := by
  intro s x h
  refine ⟨_, (exec_ldVxMem s x).trans (s.loadAtI_ok _ _ _ (by omega)), fun r hr => ?loaded, fun r hr => ?kept,
    s.setRegsFrom0_sameBut _⟩
  case loaded =>
    rw [State.reg_setRegsFrom0_of_lt _ (by simp; omega), List.getElem_map, List.getElem_range]
  case kept => exact s.reg_setRegsFrom0_of_le (by simp; omega)

/-- Settles O59: the load reads the bytes that the store wrote. -/
theorem blockStoreThenLoadRestores : Obligations.BlockStoreThenLoadRestores := by
  intro s x v h
  obtain ⟨t, ht, hstored, -, hsame⟩ := blockStore s x h
  have hi : t.i = s.i := hsame .i (by decide)
  obtain ⟨u, hu, hloaded, -, -⟩ := blockLoad { t with v := v } x (by rw [hi]; exact h)
  refine ⟨t, u, ht, hu, fun r hr => ?_⟩
  rw [hloaded r hr, ← hstored r hr, ← hi]
  rfl

/-- Settles O60: each of the four checks its bytes before it reads or writes any. -/
theorem boundsFailureChangesNothing : Obligations.BoundsFailureChangesNothing := by
  intro s x y n
  refine ⟨fun h => ?drw, fun h => ?bcd, fun h => ⟨?store, ?load⟩⟩
  case drw => exact ⟨_, (exec_drw s x y n).trans (s.loadAtI_oob _ _ _ h), rfl, s.report_sameBut _⟩
  case bcd => exact ⟨_, (exec_ldBVx s x).trans (s.storeAtI_oob _ _ h), rfl, s.report_sameBut _⟩
  case store =>
    have hlen : 4096 < s.i.toNat + (s.regsTo x).length := by rw [s.regsTo_length]; omega
    exact ⟨_, (exec_ldMemVx s x).trans (s.storeAtI_oob _ _ hlen), rfl, s.report_sameBut _⟩
  case load => exact ⟨_, (exec_ldVxMem s x).trans (s.loadAtI_oob _ _ _ (by omega)), rfl, s.report_sameBut _⟩

end Sys2Proof.Machine
end

section
/-! PROOFS. Construction and the host's transactions (10_state.md R46 to R53, 60_exceptions.md R360, 70_reset_and_hazards.md R380 to
R389). -/

namespace Sys2Proof.Machine

/-! ### Construction and reset -/

theorem Memory.unlisted_glyph (p : Config.Params) (d : Fin 16) (r : Fin 5) :
    Memory.unlisted p (0x050 + 5 * d.val + r.val) = (p.font[d])[r] := by
  have hin : Config.fontBase ≤ 0x050 + 5 * d.val + r.val ∧ 0x050 + 5 * d.val + r.val < Config.fontBase + Config.fontSize := by
    simp; omega
  have hd : (0x050 + 5 * d.val + r.val - 0x050) / 5 = d.val := by omega
  have hr : (0x050 + 5 * d.val + r.val - 0x050) % 5 = r.val := by omega
  rw [Memory.unlisted, dif_pos hin]
  simp [hd, hr]

theorem Memory.unlisted_outside (p : Config.Params) {a : Nat} (h : a < 0x050 ∨ 0x0A0 ≤ a) : Memory.unlisted p a = 0 :=
  dif_neg (by simp; omega)

/-- Settles O16: with no cell written, memory reads as it was constructed. -/
theorem constructionValues : Obligations.ConstructionValues := by
  intro p
  refine ⟨fun r => ?regs, rfl, rfl, rfl, fun k => ?stack, rfl, rfl, rfl, rfl, rfl, pixelAt_blankFb, fun k => ?keys, rfl,
    Memory.unlisted_glyph p, fun a => Memory.unlisted_outside p⟩
  case regs => simp [State.reg, State.construct]
  case stack => simp [State.construct]
  case keys => simp [State.construct]

/-- Settles O17: the transaction is the full reset, with no event. -/
theorem resetTransactionIsTheFullReset : Obligations.ResetTransactionIsTheFullReset :=
  fun s => ⟨s.fullReset, rfl, fun r => s.reg_fullReset r, fun k => by simp, rfl, rfl, rfl, s.fullReset_sameBut⟩

/-! ### LOAD -/

theorem loadStatus_eq_truncated_iff (image : List Byte) : loadStatus image = .truncated ↔ 3584 < image.length := by
  rcases Nat.eq_zero_or_pos image.length with h0 | hpos
  case inl => simp [loadStatus, h0]
  case inr =>
    rw [loadStatus, if_neg hpos.ne']
    split
    case isTrue hlong => exact iff_of_true rfl hlong
    case isFalse hshort => exact iff_of_false nofun hshort

/-- Settles O18: LOAD is one run of stores, of the first 3584 bytes at most. -/
theorem loadCopiesTheImage : Obligations.LoadCopiesTheImage := by
  intro s image
  have hlen : (image.take Config.progMax).length = min image.length 3584 := by simp [Nat.min_comm]
  refine ⟨_, _, transact_load s image, ?empty, loadStatus_eq_truncated_iff image, fun k hk hmax => ?copied, ?outside,
    s.pokeBytes_sameBut _ _⟩
  case empty => rw [loadStatus_eq_empty_iff, List.length_eq_zero_iff]
  case copied =>
    have hlt : k < (image.take Config.progMax).length := by omega
    exact (s.readByte_pokeBytes_inside Config.progBase _ hlt).trans List.getElem_take
  case outside =>
    rw [← hlen]
    exact s.pokeBytes_bytesSameOutside _ _

/-! ### The transactions that write one field -/

theorem State.reconstruct_sameBut (s : State) : (State.construct s.params).SameBut s.reconstruct [.draws, .freeDraws] := by
  intro f hf
  cases f
  case draws | freeDraws => simp at hf
  case mem => exact State.readByte_congr rfl rfl
  all_goals rfl

theorem State.setKeys_sameBut (s : State) (k : Vector Bool 16) : s.SameBut (s.setKeys k) [.keys] := by
  intro f hf
  cases f
  case keys => simp at hf
  case mem => exact State.readByte_congr rfl rfl
  all_goals rfl

theorem State.clearRedraw_sameBut (s : State) : s.SameBut s.clearRedraw [.redraw] := by
  intro f hf
  cases f
  case redraw => simp at hf
  case mem => exact State.readByte_congr rfl rfl
  all_goals rfl

/-- Settles O20: CONSTRUCT keeps the random source and the parameters alone, and the other two are one write each. -/
theorem hostTransactionsWriteOnlyTheirOwn : Obligations.HostTransactionsWriteOnlyTheirOwn :=
  fun s => ⟨⟨_, rfl, s.reconstruct_sameBut⟩, fun k => ⟨_, rfl, rfl, s.setKeys_sameBut k⟩, ⟨_, rfl, rfl, s.clearRedraw_sameBut⟩⟩

/-- The frame's bytes are its rows put one after the other (R46). -/
theorem fbBytes_eq_flatten (fb : Framebuffer) : fbBytes fb = fb.flatten.toList := by
  simp only [fbBytes, Vector.flatten, Vector.toList, Array.toList_flatten, Array.toList_map, List.map_map]
  rfl

/-- Settles O21: byte `y * 64 + x` is in row `y`, at column `x`. -/
theorem readFbGivesThePixelsRowMajor : Obligations.ReadFbGivesThePixelsRowMajor := by
  intro s
  refine ⟨fbBytes s.fb, rfl, ?length, fun x y hx hy => ?pixel⟩
  case length => rw [fbBytes_eq_flatten, Vector.length_toList]
  case pixel =>
    have hdiv : (y * 64 + x) / 64 = y := by omega
    have hmod : (y * 64 + x) % 64 = x := by omega
    have hlt : y * 64 + x < 32 * 64 := by omega
    rw [fbBytes_eq_flatten, Vector.getElem?_toList, Vector.getElem?_eq_getElem hlt, Vector.getElem_flatten, pixelAt_of_mem _ hx hy]
    simp only [hdiv, hmod]

end Sys2Proof.Machine
end
